-- ==== Sys2Proof/Word.lean ====
section
/-! DEFINITION. The word types whose width the spec fixes for every instance: a byte, the opcode, the
scalar operand `n`, the native scalar ports `s` and `rs`, and the error code. A value of the instance's
width `W` is a `BitVec W` (00_scope.md R4: a bit pattern with no signedness of its own). -/

namespace Sys2Proof

/-- A byte of a little-endian image (20_memory.md R51). -/
abbrev Byte := BitVec 8

/-- An opcode `op[7:0]` (30_encoding.md R70). -/
abbrev Opcode := BitVec 8

/-- The unsigned scalar operand `n[31:0]` (00_scope.md R5). -/
abbrev Word32 := BitVec 32

/-- A native scalar on port `s` or `rs` (00_scope.md R5). -/
abbrev Scalar := BitVec 128

/-- The error code `ERR[1:0]` (60_exceptions.md R221). -/
abbrev ErrCode := BitVec 2

end Sys2Proof
end

