-- ==== Sys2Proof/Config.lean ====
section
/-! DEFINITION. What an instance fixes when it is built: its width `W`, one of the nine of 00_scope.md R2,
and the bound `LAT_MAX(W)` on latency, an open parameter (00_scope.md R5, 70_reset_and_hazards.md R248). -/

namespace Sys2Proof

/-- The widths of the family, and no other (00_scope.md R2). -/
inductive Width where
  | w8 | w16 | w32 | w64 | w128 | w256 | w512 | w1024 | w2048
  deriving DecidableEq, Repr

/-- `W` in bits. -/
def Width.bits : Width → Nat
  | .w8 => 8
  | .w16 => 16
  | .w32 => 32
  | .w64 => 64
  | .w128 => 128
  | .w256 => 256
  | .w512 => 512
  | .w1024 => 1024
  | .w2048 => 2048

/-- `LOG2W` (00_scope.md R5). -/
def Width.log2 : Width → Nat
  | .w8 => 3
  | .w16 => 4
  | .w32 => 5
  | .w64 => 6
  | .w128 => 7
  | .w256 => 8
  | .w512 => 9
  | .w1024 => 10
  | .w2048 => 11

/-- The composite widths and the width of their halves; a leaf width has none (00_scope.md R3). -/
def Width.half : Width → Option Width
  | .w8 | .w16 | .w32 | .w64 | .w128 => none
  | .w256 => some .w128
  | .w512 => some .w256
  | .w1024 => some .w512
  | .w2048 => some .w1024

/-- The parameters of one instance. No step changes them (00_scope.md R2). -/
structure InstanceParams where
  /-- `W`. -/
  width : Width
  /-- `LAT_MAX(W)`; the spec asks for a finite integer of at least 1 (`InstanceParams.wf`). -/
  latMax : Nat
  deriving DecidableEq, Repr

namespace Config

/-- `LIMB` (00_scope.md R5): the limb of the reference division (45_divide.md R207); no port shows it. -/
def limbBits : Nat := 64

/-- DESIGN CHOICE (log entries 1 and 2): the instance that `State.reset` is the reset state of. The spec
fixes neither `W` nor `LAT_MAX(W)`; `State.resetOf` is the reset state of any instance. -/
def resetInstance : InstanceParams := { width := .w256, latMax := 256 }

/-- The counter `CNT` that acceptance loads, `LAT(W, op) - 1` (10_state.md R36), for the latency `lat`
chosen at that edge: any choice in `[1, LAT_MAX(W)]` is taken as it is (R35, R248), any other is brought
into that range (log entry 3). -/
def loadCount (latMax lat : Nat) : Nat := min (lat - 1) (latMax - 1)

/-- FREE VALUE (log entry 26): what a host variable reads as where the spec gives it no value: a name that nothing
has bound, a part its value has not, an element outside its list. It depends on the number of bindings made so
far, so that a later read may differ. -/
opaque freeHost (bindings : Nat) (name part : String) (index : Int) : Int

end Config
end Sys2Proof
end

