-- ==== Sys2Proof/Syntax.lean ====
section
/-! DEFINITION. The commands of the block (30_encoding.md R70, R74), the written form of a command (R78),
the pseudo-commands (R80) and the lines of a host script (R79). Pure syntax; the meanings stand in
Machine/. -/

namespace Sys2Proof

/-- The operations, one constructor per row of the opcode map (30_encoding.md R74). An operation has no
field in its encoding: the opcode alone selects it, and its operands are read from the latches `A`, `B`,
`N`, `S` (R70; 10_state.md R24). -/
inductive Instr where
  -- constants
  | zero | one | minU | maxU | minS | maxS
  -- conversions in
  | fromBool | fromU8 | fromU16 | fromU32 | fromU64 | fromU128
  | fromI8 | fromI16 | fromI32 | fromI64 | fromI128 | fromNarrow
  -- conversions out
  | toU8 | toU16 | toU32 | toU64 | toU128
  | toI8 | toI16 | toI32 | toI64 | toI128
  -- comparison
  | cmpU | cmpS | eq
  -- bitwise, bit scan, bit test
  | and | or | xor | not | clz | ctz | cpop | bit | bitSet | bitClr
  -- shifts and extension
  | shl | shr | sra | sext | zext
  -- add and subtract
  | add | sub | addOvfU | subOvfU | addOvfS | subOvfS
  | addSatU | subSatU | addSatS | subSatS
  | addWideU | subWideU | addWideS | subWideS
  -- averaging
  | avgAddU | avgSubU | avgAddS | avgSubS
  -- multiply
  | mul | mulWideU | mulWideS | mulWideSU | mulOvfU | mulOvfS
  -- divide
  | divU | divS | remU | remS
  -- low half
  | putLo | loSext
  deriving DecidableEq, Repr

/-- A command of an instance of width `w`: the one format `CMD` (30_encoding.md R70). A field that is not
given is zero (R78). -/
structure Command (w : Nat) where
  op : Opcode := 0
  a : BitVec w := 0
  b : BitVec w := 0
  n : Word32 := 0
  s : Scalar := 0
  deriving DecidableEq, Repr

/-- The operand fields of a command (30_encoding.md R70). -/
inductive Field where
  | a | b | n | s
  deriving DecidableEq, Repr

/-- The result registers (10_state.md R26), and the names a host script reads them by (30_encoding.md R79). -/
inductive ResField where
  | lo | hi | flag | rs | err
  deriving DecidableEq, Repr

/-- The named constants of width `W` (00_scope.md R11). -/
inductive Const where
  | zero | one | minU | maxU | minS | maxS
  deriving DecidableEq, Repr

/-- A value in a written command (30_encoding.md R78): a literal, a limb list of 64-bit limbs with the
least significant first, a constant name, or a host variable: `v`, a result `v.lo`, `v.hi`, `v.flag`, `v.rs`,
`v.err`, a half `v.lo`, `v.hi` of a host integer (95_test_vectors.md P4), or an element `v[k]` of a host list
(P5). DEDUCED, log entry 21. -/
inductive Value where
  | num (k : Nat)
  | limbs (ls : List (BitVec 64))
  | const (c : Const)
  | host (v : String) (sel : Option ResField)
  | item (v : String) (k : Value)
  deriving DecidableEq, Repr

/-- What names the operation of a written command: a mnemonic, or a raw opcode byte (95_test_vectors.md P5
writes a reserved opcode so). -/
inductive Head where
  | mnemonic (i : Instr)
  | raw (op : Opcode)
  deriving DecidableEq, Repr

/-- `MNEMONIC field=value, ...` (30_encoding.md R78). -/
structure Written where
  head : Head
  fields : List (Field × Value)
  deriving DecidableEq, Repr

/-- The pseudo-commands (30_encoding.md R80). DESIGN CHOICE (log entry 22): the `k` of `SEXT_FROM` and
`ZEXT_FROM` is a literal. -/
inductive Pseudo where
  | neg (x : Value)
  | isZero (x : Value)
  | mulhu (x y : Value)
  | mulh (x y : Value)
  | mulhsu (x y : Value)
  | sextFrom (x : Value) (k : Nat)
  | zextFrom (x : Value) (k : Nat)
  | tst (x i : Value)
  | allOnes
  | minusOne
  deriving DecidableEq, Repr

/-- What a result register holds, as the host sees it once it is bound to a host variable. -/
structure HostResult where
  lo : Nat
  hi : Nat
  flag : Bool
  rs : Nat
  err : Nat
  deriving DecidableEq, Repr

/-- What a host variable holds: an integer, a command's results, or a list (a byte buffer, or a host list
as in 95_test_vectors.md P5). -/
inductive HostVal where
  | int (k : Int)
  | res (r : HostResult)
  | list (ks : List Int)
  deriving DecidableEq, Repr

/-- The host variables, the latest binding first. -/
abbrev HostEnv := List (String × HostVal)

/-- Host integer arithmetic (30_encoding.md R79), with the bit slice, the concatenation and the list
element that the programs of 95_test_vectors.md write. A constant name carries the width it is read at.
DESIGN CHOICE (log entry 20): R79 does not list the operators; the model has `+`, `-` and `*`. -/
inductive HostTerm where
  | num (k : Int)
  | limbs (ls : List (BitVec 64))
  | const (wd : Width) (c : Const)
  | host (v : String) (sel : Option ResField)
  | add (x y : HostTerm)
  | sub (x y : HostTerm)
  | mul (x y : HostTerm)
  /-- Bits `hi` down to `lo` of `x`. -/
  | slice (x : HostTerm) (hi lo : Nat)
  /-- `{x, y}`, `y` in the low `loBits` bits. -/
  | cat (x y : HostTerm) (loBits : Nat)
  /-- Element `k` of the host list `v`. -/
  | item (v : String) (k : HostTerm)
  deriving DecidableEq, Repr

/-- A condition of `if ... goto` (30_encoding.md R79). DESIGN CHOICE (log entry 20): R79 does not say what a
condition is; the model has `=`, `!=` and `<`. -/
inductive HostCond where
  | eq (x y : HostTerm)
  | ne (x y : HostTerm)
  | lt (x y : HostTerm)
  deriving DecidableEq, Repr

/-- The byte images a host may store (20_memory.md R51, R56): the whole value, or its low half. "No access mixes
widths otherwise", so there is no other. -/
inductive Image where
  | whole
  | lowHalf
  deriving DecidableEq, Repr

/-- A line of a host script (30_encoding.md R79). `blk` names the instance a line is about, by its place
in the host's list of instances. -/
inductive Line where
  /-- `v := MNEMONIC field=value, ...`: issue the command, wait for completion, bind its results. -/
  | issue (v : String) (blk : Nat) (c : Written)
  /-- `v := term`, host integer arithmetic. -/
  | letInt (v : String) (t : HostTerm)
  /-- `v := [t, ...]`, a host list. -/
  | letList (v : String) (ts : List HostTerm)
  /-- `v := val(buffer)` (20_memory.md R51) at the width of instance `blk`. DESIGN CHOICE (log entry 25): the
  buffer is a literal byte list, as in 95_test_vectors.md P3. -/
  | fromBytes (v : String) (blk : Nat) (buffer : List Byte)
  /-- `v := bytes(t)` or `v := bytes(t)[0 .. W/16-1]` at the width of instance `blk`. DESIGN CHOICE (log entry
  18): of a host integer that is no `W`-bit pattern, the image is that of its pattern modulo `2^W`. -/
  | toBytes (v : String) (blk : Nat) (t : HostTerm) (image : Image)
  /-- `L:`. -/
  | label (l : String)
  /-- `goto L`. -/
  | goto (l : String)
  /-- `if c goto L`. -/
  | ifGoto (c : HostCond) (l : String)
  /-- `halt`. -/
  | halt
  deriving DecidableEq, Repr

end Sys2Proof
end

