-- ==== Sys2Proof/Machine/Bits.lean ====
section
/-! DEFINITION. The notation of 00_scope.md R6 to R11: the integers a pattern stands for, the pattern of an
integer, extension and truncation, the exact integer divisions, the named constants, the halves of a
value, and the little-endian byte image of 20_memory.md R51. -/

namespace Sys2Proof.Machine

/-- `u(v)` (00_scope.md R7). -/
def u {w : Nat} (v : BitVec w) : Int := v.toNat

/-- `s(v) = u(v) - v[W-1] * 2^W` (00_scope.md R7). -/
def sgn {w : Nat} (v : BitVec w) : Int := if v.msb then (v.toNat : Int) - (2 ^ w : Nat) else v.toNat

/-- `bv_N(i)`: the pattern of `i mod 2^N` (00_scope.md R8). -/
def bv (n : Nat) (i : Int) : BitVec n := BitVec.ofInt n i

/-- `zext_N`, which truncates when `N` is below the width of `v` (00_scope.md R8). -/
def zextTo (n : Nat) {w : Nat} (v : BitVec w) : BitVec n := bv n (u v)

/-- `sext_N`, which truncates when `N` is below the width of `v` (00_scope.md R8). -/
def sextTo (n : Nat) {w : Nat} (v : BitVec w) : BitVec n := if w ≤ n then bv n (sgn v) else bv n (u v)

/-- `tdiv`: division rounded toward zero (00_scope.md R9). -/
def tdiv (a b : Int) : Int := Int.tdiv a b

/-- `trem(a, b) = a - b * tdiv(a, b)` (00_scope.md R9). -/
def trem (a b : Int) : Int := a - b * tdiv a b

/-- `fdiv`: division rounded toward minus infinity (00_scope.md R9). -/
def fdiv (a b : Int) : Int := Int.fdiv a b

/-- A truth value as a pattern: 1 for true and 0 for false (00_scope.md R9). -/
def ofBool (w : Nat) (t : Bool) : BitVec w := bv w (if t then 1 else 0)

/-- `ZERO` (00_scope.md R11). -/
def cZero (w : Nat) : BitVec w := bv w 0

/-- `ONE` (00_scope.md R11). -/
def cOne (w : Nat) : BitVec w := bv w 1

/-- `MIN_U` (00_scope.md R11). -/
def cMinU (w : Nat) : BitVec w := bv w 0

/-- `MAX_U`: all ones (00_scope.md R11). -/
def cMaxU (w : Nat) : BitVec w := bv w ((2 ^ w : Nat) - 1)

/-- `MIN_S`: the sign bit only (00_scope.md R11; the pairing is settled in 90_conflicts.md C2). -/
def cMinS (w : Nat) : BitVec w := bv w ((2 ^ (w - 1) : Nat))

/-- `MAX_S`: all ones but the sign bit (00_scope.md R11). -/
def cMaxS (w : Nat) : BitVec w := bv w ((2 ^ (w - 1) : Nat) - 1)

/-- The value of a constant name. -/
def constValue (w : Nat) : Const → BitVec w
  | .zero => cZero w
  | .one => cOne w
  | .minU => cMinU w
  | .maxU => cMaxU w
  | .minS => cMinS w
  | .maxS => cMaxS w

/-- `v[lo+len-1:lo]` (00_scope.md R6). -/
def bitsAt {w : Nat} (v : BitVec w) (lo len : Nat) : BitVec len := v.extractLsb' lo len

/-- The low half `v[W/2-1:0]` of a value of `2H` bits (00_scope.md R3). -/
def loHalf {h : Nat} (v : BitVec (h + h)) : BitVec h := bitsAt v 0 h

/-- The high half `v[W-1:W/2]` of a value of `2H` bits (00_scope.md R3). -/
def hiHalf {h : Nat} (v : BitVec (h + h)) : BitVec h := bitsAt v h h

/-- `{hi, lo}` (00_scope.md R6). -/
def joinHalves {h : Nat} (hi lo : BitVec h) : BitVec (h + h) := hi ++ lo

/-- The number of zero bits of `v` from bit `k-1` down to the first 1 bit, all `k` of them if there is none. -/
def zerosBelow {w : Nat} (v : BitVec w) : Nat → Nat
  | 0 => 0
  | k + 1 => if v.getLsbD k then 0 else zerosBelow v k + 1

/-- The number of zero bits of `v` from bit `i` up to the first 1 bit, all `k` of them if there is none. -/
def zerosFrom {w : Nat} (v : BitVec w) (i : Nat) : Nat → Nat
  | 0 => 0
  | k + 1 => if v.getLsbD i then 0 else zerosFrom v (i + 1) k + 1

/-- The number of 1 bits among bits `k-1` down to 0. -/
def onesBelow {w : Nat} (v : BitVec w) : Nat → Nat
  | 0 => 0
  | k + 1 => onesBelow v k + if v.getLsbD k then 1 else 0

/-- `popcount(v)` (00_scope.md R9). -/
def popcount {w : Nat} (v : BitVec w) : Nat := onesBelow v w

/-- `bytes(v)[i] = v[8i+7 : 8i]` (20_memory.md R51). -/
def byteLane {w : Nat} (v : BitVec w) (i : Nat) : Byte := bitsAt v (8 * i) 8

/-- `bytes(v)`: the little-endian image of `v`, `W/8` bytes (20_memory.md R51, the source's `put`). -/
def bytesOf {w : Nat} (v : BitVec w) : List Byte := (List.range (w / 8)).map (byteLane v)

/-- The unsigned value of a little-endian byte list, byte 0 in bits 7:0 (20_memory.md R51). -/
def bytesToNat : List Byte → Nat
  | [] => 0
  | b :: bs => b.toNat + 256 * bytesToNat bs

/-- `val(b)` for a buffer of the right length (20_memory.md R51, the source's `get`). -/
def valOf (w : Nat) (bs : List Byte) : BitVec w := BitVec.ofNat w (bytesToNat bs)

/-- The unsigned value of a limb list, least significant limb first (00_scope.md R6). -/
def limbsToNat : List (BitVec 64) → Nat
  | [] => 0
  | l :: ls => l.toNat + 2 ^ 64 * limbsToNat ls

end Sys2Proof.Machine
end

