-- ==== Sys2Proof/Machine/Columns.lean ====
section
/-! DEFINITION. The columns "reads" and "writes" of the opcode map (30_encoding.md R74): which operand
fields an operation uses, and which result registers it may write with a value that is not zero. -/

namespace Sys2Proof

/-- Column "reads" of 30_encoding.md R74. -/
def Instr.reads : Instr → List Field
  | .zero | .one | .minU | .maxU | .minS | .maxS => []
  | .fromBool | .fromU8 | .fromU16 | .fromU32 | .fromU64 | .fromU128 => [.s]
  | .fromI8 | .fromI16 | .fromI32 | .fromI64 | .fromI128 => [.s]
  | .fromNarrow => [.a, .n]
  | .toU8 | .toU16 | .toU32 | .toU64 | .toU128 => [.a]
  | .toI8 | .toI16 | .toI32 | .toI64 | .toI128 => [.a]
  | .cmpU | .cmpS | .eq => [.a, .b]
  | .and | .or | .xor => [.a, .b]
  | .not | .clz | .ctz | .cpop => [.a]
  | .bit | .bitSet | .bitClr => [.a, .n]
  | .shl | .shr | .sra | .sext | .zext => [.a, .n]
  | .add | .sub | .addOvfU | .subOvfU | .addOvfS | .subOvfS => [.a, .b]
  | .addSatU | .subSatU | .addSatS | .subSatS => [.a, .b]
  | .addWideU | .subWideU | .addWideS | .subWideS => [.a, .b]
  | .avgAddU | .avgSubU | .avgAddS | .avgSubS => [.a, .b]
  | .mul | .mulWideU | .mulWideS | .mulWideSU | .mulOvfU | .mulOvfS => [.a, .b]
  | .divU | .divS | .remU | .remS => [.a, .b]
  | .putLo | .loSext => [.a]

/-- Column "writes" of 30_encoding.md R74. -/
def Instr.writes : Instr → List ResField
  | .zero | .one | .minU | .maxU | .minS | .maxS => [.lo]
  | .fromBool | .fromU8 | .fromU16 | .fromU32 | .fromU64 | .fromU128 => [.lo]
  | .fromI8 | .fromI16 | .fromI32 | .fromI64 | .fromI128 => [.lo]
  | .fromNarrow => [.lo, .err]
  | .toU8 | .toU16 | .toU32 | .toU64 | .toU128 => [.rs]
  | .toI8 | .toI16 | .toI32 | .toI64 | .toI128 => [.rs]
  | .cmpU | .cmpS => [.lo]
  | .eq => [.lo, .flag]
  | .and | .or | .xor | .not | .clz | .ctz | .cpop => [.lo]
  | .bit => [.lo, .flag]
  | .bitSet | .bitClr => [.lo]
  | .shl | .shr | .sra | .sext | .zext => [.lo]
  | .add | .sub => [.lo]
  | .addOvfU | .subOvfU | .addOvfS | .subOvfS => [.lo, .flag]
  | .addSatU | .subSatU | .addSatS | .subSatS => [.lo, .flag]
  | .addWideU | .subWideU | .addWideS | .subWideS => [.lo, .hi]
  | .avgAddU | .avgSubU | .avgAddS | .avgSubS => [.lo]
  | .mul => [.lo]
  | .mulWideU | .mulWideS | .mulWideSU => [.lo, .hi]
  | .mulOvfU | .mulOvfS => [.lo, .flag]
  | .divU | .divS | .remU | .remS => [.lo]
  | .putLo => [.lo, .err]
  | .loSext => [.lo]

end Sys2Proof
end

