-- ==== Sys2Proof/WellFormed.lean ====
section
/-! DEFINITION. What makes a command, a written command, a pseudo-command and a host script well formed.
The checks run on the syntax alone (and the width `W` the instance has). -/

namespace Sys2Proof

/-- `LAT_MAX(W)` is an integer of at least 1, because every `LAT(W, op)` is (00_scope.md R5). -/
def InstanceParams.wf (p : InstanceParams) : Bool := 1 ≤ p.latMax

/-- The opcode is legal at width `W`: every one is but `PUT_LO` at `W = 8`, which completes with `IllegalOp`
there (46_serialization.md R210, 60_exceptions.md R221). It is no condition on a written command: 30_encoding.md
R78 has none, and 95_test_vectors.md VL2 writes that one. -/
def Instr.legalAt (i : Instr) (wd : Width) : Bool := !(i = .putLo && wd = .w8)

/-- The width of an operand port (30_encoding.md R70). -/
def Field.bits (wd : Width) : Field → Nat
  | .a | .b => wd.bits
  | .n => 32
  | .s => 128

/-- The unsigned value of a value that names no host variable (30_encoding.md R78). -/
def Value.closed (wd : Width) : Value → Option Nat
  | .num k => some k
  | .limbs ls => some (Machine.limbsToNat ls)
  | .const c => some (Machine.constValue wd.bits c).toNat
  | .host _ _ | .item _ _ => none

/-- A literal fits its port. DESIGN CHOICE, unsafe (log entry 11): the spec does not say what a literal of
more bits than its port encodes. -/
def Value.fits (wd : Width) (f : Field) (v : Value) : Bool :=
  match v.closed wd with
  | some k => k < 2 ^ f.bits wd
  | none => true

/-- No field is written twice. DESIGN CHOICE, unsafe (log entry 12). -/
def Written.fieldsOnce (c : Written) : Bool := decide (c.fields.map Prod.fst).Nodup

/-- Every field the operation reads is written (30_encoding.md R78: only "a field the operation does not
read may be omitted"); what one left out encodes is log entry 24. A raw opcode byte reads nothing the check knows of. -/
def Written.readsGiven (c : Written) : Bool :=
  match c.head with
  | .mnemonic i => i.reads.all fun f => decide (f ∈ c.fields.map Prod.fst)
  | .raw _ => true

/-- A written command is well formed at width `W` (30_encoding.md R78). -/
def Written.wf (wd : Width) (c : Written) : Bool :=
  c.fieldsOnce && c.readsGiven && c.fields.all fun fv => fv.2.fits wd fv.1

/-- A pseudo-command is well formed: `SEXT_FROM` and `ZEXT_FROM` ask for `1 <= k <= W` (30_encoding.md R80). -/
def Pseudo.wf (wd : Width) : Pseudo → Bool
  | .neg x | .isZero x => x.fits wd .a
  | .mulhu x y | .mulh x y | .mulhsu x y => x.fits wd .a && y.fits wd .b
  | .sextFrom x k | .zextFrom x k => x.fits wd .a && decide (1 ≤ k) && decide (k ≤ wd.bits)
  | .tst x i => x.fits wd .a && i.fits wd .n
  | .allOnes | .minusOne => true

/-- The labels a script defines. -/
def scriptLabels (ls : List Line) : List String :=
  ls.filterMap fun
    | .label l => some l
    | _ => none

/-- The image has whole bytes: every one has but the low half at `W = 8` (90_conflicts.md C8). DESIGN CHOICE,
unsafe (log entry 23). -/
def Image.wf (wd : Width) (im : Image) : Bool := !(im = .lowHalf && wd = .w8)

/-- A line of a script is well formed, given the widths of the host's instances and the labels the script
defines: its command is, the instance it names exists, and the label it goes to is there. -/
def Line.wf (widths : List Width) (labels : List String) : Line → Bool
  | .issue _ blk c =>
    match widths[blk]? with
    | some wd => c.wf wd
    | none => false
  | .fromBytes _ blk _ => decide (blk < widths.length)
  | .toBytes _ blk _ im =>
    match widths[blk]? with
    | some wd => im.wf wd
    | none => false
  | .goto l | .ifGoto _ l => decide (l ∈ labels)
  | .letInt _ _ | .letList _ _ | .label _ | .halt => true

/-- A script is well formed (30_encoding.md R79): every line is, and no label stands twice. -/
def scriptWf (widths : List Width) (ls : List Line) : Bool :=
  decide (scriptLabels ls).Nodup && ls.all fun l => l.wf widths (scriptLabels ls)

end Sys2Proof
end

