-- ==== Sys2Proof/Decode.lean ====
section
/-! DEFINITION. The opcode map of 30_encoding.md R74 in both directions, the rejection of the reserved
opcodes (R75), the encoding of a written command (R78) and the pseudo-commands' expansions (R80). -/

namespace Sys2Proof

/-- Why an opcode is rejected. -/
inductive Reject where
  /-- `op` is one of the 180 reserved values (30_encoding.md R75). -/
  | reservedOpcode (op : Opcode)
  deriving DecidableEq, Repr

/-- The opcode map of 30_encoding.md R74, read from the opcode. Total: every byte selects one row or is
reserved (R77). -/
def decode (op : Opcode) : Except Reject Instr :=
  match op.toNat with
  | 0x01 => .ok .zero
  | 0x02 => .ok .one
  | 0x03 => .ok .minU
  | 0x04 => .ok .maxU
  | 0x05 => .ok .minS
  | 0x06 => .ok .maxS
  | 0x10 => .ok .fromBool
  | 0x11 => .ok .fromU8
  | 0x12 => .ok .fromU16
  | 0x13 => .ok .fromU32
  | 0x14 => .ok .fromU64
  | 0x15 => .ok .fromU128
  | 0x19 => .ok .fromI8
  | 0x1A => .ok .fromI16
  | 0x1B => .ok .fromI32
  | 0x1C => .ok .fromI64
  | 0x1D => .ok .fromI128
  | 0x1F => .ok .fromNarrow
  | 0x21 => .ok .toU8
  | 0x22 => .ok .toU16
  | 0x23 => .ok .toU32
  | 0x24 => .ok .toU64
  | 0x25 => .ok .toU128
  | 0x29 => .ok .toI8
  | 0x2A => .ok .toI16
  | 0x2B => .ok .toI32
  | 0x2C => .ok .toI64
  | 0x2D => .ok .toI128
  | 0x30 => .ok .cmpU
  | 0x31 => .ok .cmpS
  | 0x32 => .ok .eq
  | 0x40 => .ok .and
  | 0x41 => .ok .or
  | 0x42 => .ok .xor
  | 0x43 => .ok .not
  | 0x44 => .ok .clz
  | 0x45 => .ok .ctz
  | 0x46 => .ok .cpop
  | 0x47 => .ok .bit
  | 0x48 => .ok .bitSet
  | 0x49 => .ok .bitClr
  | 0x50 => .ok .shl
  | 0x51 => .ok .shr
  | 0x52 => .ok .sra
  | 0x53 => .ok .sext
  | 0x54 => .ok .zext
  | 0x60 => .ok .add
  | 0x61 => .ok .sub
  | 0x62 => .ok .addOvfU
  | 0x63 => .ok .subOvfU
  | 0x64 => .ok .addOvfS
  | 0x65 => .ok .subOvfS
  | 0x66 => .ok .addSatU
  | 0x67 => .ok .subSatU
  | 0x68 => .ok .addSatS
  | 0x69 => .ok .subSatS
  | 0x6A => .ok .addWideU
  | 0x6B => .ok .subWideU
  | 0x6C => .ok .addWideS
  | 0x6D => .ok .subWideS
  | 0x70 => .ok .avgAddU
  | 0x71 => .ok .avgSubU
  | 0x72 => .ok .avgAddS
  | 0x73 => .ok .avgSubS
  | 0x80 => .ok .mul
  | 0x81 => .ok .mulWideU
  | 0x82 => .ok .mulWideS
  | 0x83 => .ok .mulWideSU
  | 0x84 => .ok .mulOvfU
  | 0x85 => .ok .mulOvfS
  | 0x90 => .ok .divU
  | 0x91 => .ok .divS
  | 0x92 => .ok .remU
  | 0x93 => .ok .remS
  | 0xA0 => .ok .putLo
  | 0xA1 => .ok .loSext
  | _ => .error (.reservedOpcode op)

/-- The opcode map of 30_encoding.md R74, read from the mnemonic. -/
def encode : Instr → Opcode
  | .zero => 0x01
  | .one => 0x02
  | .minU => 0x03
  | .maxU => 0x04
  | .minS => 0x05
  | .maxS => 0x06
  | .fromBool => 0x10
  | .fromU8 => 0x11
  | .fromU16 => 0x12
  | .fromU32 => 0x13
  | .fromU64 => 0x14
  | .fromU128 => 0x15
  | .fromI8 => 0x19
  | .fromI16 => 0x1A
  | .fromI32 => 0x1B
  | .fromI64 => 0x1C
  | .fromI128 => 0x1D
  | .fromNarrow => 0x1F
  | .toU8 => 0x21
  | .toU16 => 0x22
  | .toU32 => 0x23
  | .toU64 => 0x24
  | .toU128 => 0x25
  | .toI8 => 0x29
  | .toI16 => 0x2A
  | .toI32 => 0x2B
  | .toI64 => 0x2C
  | .toI128 => 0x2D
  | .cmpU => 0x30
  | .cmpS => 0x31
  | .eq => 0x32
  | .and => 0x40
  | .or => 0x41
  | .xor => 0x42
  | .not => 0x43
  | .clz => 0x44
  | .ctz => 0x45
  | .cpop => 0x46
  | .bit => 0x47
  | .bitSet => 0x48
  | .bitClr => 0x49
  | .shl => 0x50
  | .shr => 0x51
  | .sra => 0x52
  | .sext => 0x53
  | .zext => 0x54
  | .add => 0x60
  | .sub => 0x61
  | .addOvfU => 0x62
  | .subOvfU => 0x63
  | .addOvfS => 0x64
  | .subOvfS => 0x65
  | .addSatU => 0x66
  | .subSatU => 0x67
  | .addSatS => 0x68
  | .subSatS => 0x69
  | .addWideU => 0x6A
  | .subWideU => 0x6B
  | .addWideS => 0x6C
  | .subWideS => 0x6D
  | .avgAddU => 0x70
  | .avgSubU => 0x71
  | .avgAddS => 0x72
  | .avgSubS => 0x73
  | .mul => 0x80
  | .mulWideU => 0x81
  | .mulWideS => 0x82
  | .mulWideSU => 0x83
  | .mulOvfU => 0x84
  | .mulOvfS => 0x85
  | .divU => 0x90
  | .divS => 0x91
  | .remU => 0x92
  | .remS => 0x93
  | .putLo => 0xA0
  | .loSext => 0xA1

/-- The family of an opcode, `op[7:4]` (30_encoding.md R70, R74). -/
def opcodeFamily (op : Opcode) : BitVec 4 := op.extractLsb' 4 4

/-- The member of an opcode in its family, `op[3:0]` (30_encoding.md R70). -/
def opcodeMember (op : Opcode) : BitVec 4 := op.extractLsb' 0 4

/-- The reserved opcodes as ranges, first and last (30_encoding.md R75). -/
def reservedRanges : List (Nat × Nat) :=
  [(0x00, 0x00), (0x07, 0x0F), (0x16, 0x18), (0x1E, 0x1E), (0x20, 0x20), (0x26, 0x28)] ++
  [(0x2E, 0x2F), (0x33, 0x3F), (0x4A, 0x4F), (0x55, 0x5F), (0x6E, 0x6F), (0x74, 0x7F)] ++
  [(0x86, 0x8F), (0x94, 0x9F), (0xA2, 0xFF)]

/-- `op` is in one of the ranges of 30_encoding.md R75. -/
def isReserved (op : Opcode) : Bool :=
  reservedRanges.any fun r => decide (r.1 ≤ op.toNat) && decide (op.toNat ≤ r.2)

/-- What the decoder gives for an instruction whose bits are `w`, numbered as spec/opcode_table.json numbers
them: the table gives every row the 8 bits of the opcode byte. -/
def decodeTableWord (nbits w : Nat) : Option Instr :=
  match decode (BitVec.ofNat 8 (w % 2 ^ nbits)) with
  | .ok i => some i
  | .error _ => none

/-- The opcode byte of a written command's head (30_encoding.md R78). -/
def Head.opcode : Head → Opcode
  | .mnemonic i => encode i
  | .raw op => op

/-- The number a result holds under one of the names of 30_encoding.md R79. -/
def HostResult.get (r : HostResult) : ResField → Int
  | .lo => r.lo
  | .hi => r.hi
  | .flag => if r.flag then 1 else 0
  | .rs => r.rs
  | .err => r.err

/-- The name a host script reads a result by (30_encoding.md R79). -/
def ResField.name : ResField → String
  | .lo => "lo"
  | .hi => "hi"
  | .flag => "flag"
  | .rs => "rs"
  | .err => "err"

/-- What a bound host variable holds under a selector: an integer, one result of a command (30_encoding.md R79),
or a half of an integer of `2W` bits where the width `W` of the halves is known (95_test_vectors.md P4; DEDUCED,
log entry 21). Nothing else. -/
def HostVal.read (half : Option Nat) (x : HostVal) (sel : Option ResField) : Option Int :=
  match x, sel, half with
  | .int k, none, _ => some k
  | .int k, some .lo, some w => some (k % (2 ^ w : Nat))
  | .int k, some .hi, some w => some (k / (2 ^ w : Nat) % (2 ^ w : Nat))
  | .res r, some f, _ => some (r.get f)
  | _, _, _ => none

/-- Element `i` of a host list, from 0 (95_test_vectors.md P5). Nothing else has one. -/
def HostVal.item (x : HostVal) (i : Int) : Option Int :=
  match x with
  | .list ks => if 0 ≤ i then ks[i.toNat]? else none
  | _ => none

/-- Reads a host variable; a free value where the spec gives it none (log entry 26). -/
def readHost (half : Option Nat) (env : HostEnv) (v : String) (sel : Option ResField) : Int :=
  ((env.lookup v).bind fun x => x.read half sel).getD
    (Config.freeHost env.length v ((sel.map ResField.name).getD "") 0)

/-- Reads an element of a host list; a free value where the spec gives it none (log entry 26). -/
def readItem (env : HostEnv) (v : String) (i : Int) : Int :=
  ((env.lookup v).bind fun x => x.item i).getD (Config.freeHost env.length v "item" i)

/-- The integer a value of a written command stands for, on an instance of width `W` (30_encoding.md R78). -/
def Value.eval (wd : Width) (env : HostEnv) : Value → Int
  | .num k => k
  | .limbs ls => Machine.limbsToNat ls
  | .const c => (Machine.constValue wd.bits c).toNat
  | .host v sel => readHost (some wd.bits) env v sel
  | .item v k => readItem env v (k.eval wd env)

/-- Puts the integer `k` on a field of a command, as the pattern of the field's width. -/
def Command.put {w : Nat} (x : Command w) (f : Field) (k : Int) : Command w :=
  match f with
  | .a => { x with a := Machine.bv w k }
  | .b => { x with b := Machine.bv w k }
  | .n => { x with n := Machine.bv 32 k }
  | .s => { x with s := Machine.bv 128 k }

/-- The unsigned value on a field of a command. -/
def Command.get {w : Nat} (x : Command w) : Field → Nat
  | .a => x.a.toNat
  | .b => x.b.toNat
  | .n => x.n.toNat
  | .s => x.s.toNat

/-- Puts the written fields on a command, one after another. -/
def putFields {w : Nat} (wd : Width) (env : HostEnv) (x : Command w) : List (Field × Value) → Command w
  | [] => x
  | (f, v) :: rest => putFields wd env (x.put f (v.eval wd env)) rest

/-- The encoding of a written command on the ports of an instance: its opcode byte and the field values, a
field not written being zero (30_encoding.md R78). DESIGN CHOICE for the commands `Written.wf` refuses, which it
encodes all the same: a read field left out is zero (log entry 24), a literal too large for its port is its low
bits (log entry 11), and of a field written twice the last counts (log entry 12). -/
def assemble (wd : Width) (env : HostEnv) (c : Written) : Command wd.bits :=
  putFields wd env { op := c.head.opcode } c.fields

/-- The expansion of a pseudo-command into one command (30_encoding.md R80). -/
def Pseudo.expand : Pseudo → Written
  | .neg x => ⟨.mnemonic .sub, [(.a, .const .zero), (.b, x)]⟩
  | .isZero x => ⟨.mnemonic .eq, [(.a, x), (.b, .const .zero)]⟩
  | .mulhu x y => ⟨.mnemonic .mulWideU, [(.a, x), (.b, y)]⟩
  | .mulh x y => ⟨.mnemonic .mulWideS, [(.a, x), (.b, y)]⟩
  | .mulhsu x y => ⟨.mnemonic .mulWideSU, [(.a, x), (.b, y)]⟩
  | .sextFrom x k => ⟨.mnemonic .sext, [(.a, x), (.n, .num (k - 1))]⟩
  | .zextFrom x k => ⟨.mnemonic .zext, [(.a, x), (.n, .num (k - 1))]⟩
  | .tst x i => ⟨.mnemonic .bit, [(.a, x), (.n, i)]⟩
  | .allOnes => ⟨.mnemonic .maxU, []⟩
  | .minusOne => ⟨.mnemonic .maxU, []⟩

end Sys2Proof
end

