-- ==== Sys2Proof/Machine/State.lean ====
section
/-! DEFINITION. The state of an instance: its registers (10_state.md R26), its parameters (00_scope.md R5)
and the levels of its input ports at the edges to come (10_state.md R23); the reset state
(70_reset_and_hazards.md R240); the reasons a host function stops. State is plain data. -/

namespace Sys2Proof.Machine

/-- What a command leaves in the result registers. A register a rule does not name is zero (10_state.md R31,
00_scope.md R12), so each field has that value unless it is given. -/
structure Results (w : Nat) where
  lo : BitVec w := 0
  hi : BitVec w := 0
  flag : Bool := false
  rs : Scalar := 0
  err : ErrCode := 0
  deriving DecidableEq, Repr

/-- The registers of an instance of width `w`, and no other (10_state.md R26). -/
structure Regs (w : Nat) where
  /-- `BUSY`: 1 from acceptance to completion of a command. -/
  busy : Bool
  /-- `DONE`: 1 from completion until the next acceptance or reset. -/
  done : Bool
  /-- The operand latches `OPL`, `AL`, `BL`, `NL`, `SL` (10_state.md R24). -/
  opl : Opcode
  al : BitVec w
  bl : BitVec w
  nl : Word32
  sl : Scalar
  /-- The result registers `R_LO`, `R_HI`, `FLAG`, `RS`, `ERR` (10_state.md R30). -/
  rLo : BitVec w
  rHi : BitVec w
  flag : Bool
  rs : Scalar
  err : ErrCode
  /-- `CNT`: times completion; no port shows it (10_state.md R35; log entry 5). -/
  cnt : Nat
  deriving DecidableEq, Repr

/-- The levels of the input ports at one rising edge of `clk` (10_state.md R23), and the latency the
implementation takes if a command is accepted at that edge. `lat` is the model's own: a FREE VALUE, the
"nondeterministic choice of the completion edge" of 10_state.md R35 (log entry 3). The defaults are idle
ports: no reset, no request. -/
structure Inputs (w : Nat) where
  rst : Bool := false
  start : Bool := false
  op : Opcode := 0
  a : BitVec w := 0
  b : BitVec w := 0
  n : Word32 := 0
  s : Scalar := 0
  lat : Nat := 1
  deriving DecidableEq, Repr

/-- An instance of the EINT core, with what the outside drives on its ports. -/
structure State where
  /-- The parameters the instance was built with. -/
  inst : InstanceParams
  /-- The registers. -/
  regs : Regs inst.width.bits
  /-- The port levels at the rising edges to come, the next edge first. Past the end of the list the
  ports are idle (log entry 4). -/
  inputs : List (Inputs inst.width.bits)
  deriving DecidableEq, Repr

/-- The reasons a function of the HOST stops. The block itself has no fault (60_exceptions.md R220): no step
answers one. -/
inductive Fault where
  /-- Raised by `hostVal` (Machine/HostSide.lean), and by a script line that forms a value from bytes: the
  buffer does not hold exactly `W/8` bytes (60_exceptions.md R224). Safe: the host stops and issues no
  command. -/
  | shortBuffer
  /-- Raised by `hostRead` (Machine/HostSide.lean): a result port is read while `DONE = 0`
  (70_reset_and_hazards.md R246). Safe: no claim can rest on a stale value. -/
  | readBeforeDone
  deriving DecidableEq, Repr

/-- The reasons the model gives no meaning. -/
inductive Refusal where
  /-- Raised by an arm of `exec` for an operation that has no meaning yet. Safe. No arm raises it. -/
  | notModelled (mnemonic : String)
  /-- Raised by the script machine: the script has no such label. Safe (log entry 13). -/
  | missingLabel (name : String)
  /-- Raised by the script machine: the host has no instance of that number. Safe (log entry 13). -/
  | missingInstance (blk : Nat)
  deriving DecidableEq, Repr

/-- The reset values of 10_state.md R26. `CNT` has none: DESIGN CHOICE 0, log entry 5. -/
def Regs.resetValues (w : Nat) : Regs w :=
  { busy := false, done := false
    opl := 0, al := 0, bl := 0, nl := 0, sl := 0
    rLo := 0, rHi := 0, flag := false, rs := 0, err := 0
    cnt := 0 }

/-- The state of an instance right after an edge with `rst = 1` (70_reset_and_hazards.md R240), with nothing
driven on its ports. -/
def State.resetOf (p : InstanceParams) : State :=
  { inst := p, regs := Regs.resetValues p.width.bits, inputs := [] }

/-- The reset state of the instance `Config.resetInstance` (log entries 1 and 2). -/
def State.reset : State := State.resetOf Config.resetInstance

end Sys2Proof.Machine
end

