-- ==== Sys2Proof/Machine/Ops.lean ====
section
/-! DEFINITION. The shared operations on the registers: the view of the latched command, the output ports,
the things that can happen at a rising edge (10_state.md R36), and the error outcome (60_exceptions.md
R222). The block has no memory (20_memory.md R50) and no exception entry or return (60_exceptions.md R220,
R226): an error is a result like any other. -/

namespace Sys2Proof.Machine

/-- The error codes of 60_exceptions.md R221. -/
def errOk : ErrCode := 0
/-- `IllegalOp`. -/
def errIllegalOp : ErrCode := 1
/-- `IllegalOperand`. -/
def errIllegalOperand : ErrCode := 2

/-- The error outcome (60_exceptions.md R222): every result zero but the code. -/
def raiseError (w : Nat) (code : ErrCode) : Results w := { err := code }

/-- `raise IllegalOp()` (60_exceptions.md R221, R222). -/
def raiseIllegalOp (w : Nat) : Results w := raiseError w errIllegalOp

/-- `raise IllegalOperand()` (60_exceptions.md R221, R222). -/
def raiseIllegalOperand (w : Nat) : Results w := raiseError w errIllegalOperand

/-- The latched command, which every operation reads as `OP`, `A`, `B`, `N`, `S` (10_state.md R24). -/
def Regs.latched {w : Nat} (r : Regs w) : Command w :=
  { op := r.opl, a := r.al, b := r.bl, n := r.nl, s := r.sl }

/-- The contents of the result registers. -/
def Regs.results {w : Nat} (r : Regs w) : Results w :=
  { lo := r.rLo, hi := r.rHi, flag := r.flag, rs := r.rs, err := r.err }

/-- The completion edge: every result register is written and the command is over (10_state.md R30, R31). -/
def Regs.complete {w : Nat} (r : Regs w) (x : Results w) : Regs w :=
  { r with
    rLo := x.lo, rHi := x.hi, flag := x.flag, rs := x.rs, err := x.err
    busy := false, done := true }

/-- The acceptance edge: the ports are copied into the latches and the command is in flight
(10_state.md R24, R28); the result registers keep their values (R33). -/
def Regs.accept {w : Nat} (r : Regs w) (i : Inputs w) (latMax : Nat) : Regs w :=
  { r with
    opl := i.op, al := i.a, bl := i.b, nl := i.n, sl := i.s
    busy := true, done := false, cnt := Config.loadCount latMax i.lat }

/-- An edge of a command in flight before its completion edge: only `CNT` changes, and the ports are not
looked at (10_state.md R29, R36). -/
def Regs.countDown {w : Nat} (r : Regs w) : Regs w := { r with cnt := r.cnt - 1 }

/-- The status word `{ERR[1:0], FLAG, DONE, BUSY}` (10_state.md R27). -/
def Regs.status {w : Nat} (r : Regs w) : BitVec 5 :=
  r.err ++ BitVec.ofBool r.flag ++ BitVec.ofBool r.done ++ BitVec.ofBool r.busy

/-- The output ports (10_state.md R25). -/
structure OutPorts (w : Nat) where
  busy : Bool
  done : Bool
  rLo : BitVec w
  rHi : BitVec w
  flag : Bool
  rs : Scalar
  err : ErrCode
  status : BitVec 5
  deriving DecidableEq, Repr

/-- The output ports are driven from the registers, never from the inputs (10_state.md R25). -/
def Regs.ports {w : Nat} (r : Regs w) : OutPorts w :=
  { busy := r.busy, done := r.done, rLo := r.rLo, rHi := r.rHi, flag := r.flag, rs := r.rs
    err := r.err, status := r.status }

/-- `W`, the width of the instance (00_scope.md R5). -/
abbrev State.bits (s : State) : Nat := s.inst.width.bits

/-- The latched command of a state. -/
def State.cmd (s : State) : Command s.inst.width.bits := s.regs.latched

/-- The port levels at the next rising edge. -/
def State.now (s : State) : Inputs s.inst.width.bits := s.inputs.headD {}

/-- The state with the port levels of one edge used up. -/
def State.advance (s : State) : State := { s with inputs := s.inputs.tail }

/-- The port levels of an edge are used up once the edge has changed the registers. -/
def advanceNext (o : Host.Outcome State Fault Refusal) : Host.Outcome State Fault Refusal :=
  match o with
  | .next t => .next t.advance
  | .fault f => .fault f
  | .refused r => .refused r

/-- A state with the command in its latches completed with results `x`. -/
def State.withResults (s : State) (x : Results s.inst.width.bits) : State :=
  { s with regs := s.regs.complete x }

/-- What every operation ends in: its results are written at the completion edge (10_state.md R30). -/
def State.complete (s : State) (x : Results s.inst.width.bits) : Host.Outcome State Fault Refusal :=
  .next (s.withResults x)

/-- The reset edge (70_reset_and_hazards.md R240, R241). -/
def State.resetEdge (s : State) : State :=
  { s with regs := Regs.resetValues s.inst.width.bits }

/-- The acceptance edge of a state whose ports show `i`. -/
def State.acceptEdge (s : State) (i : Inputs s.inst.width.bits) : State :=
  { s with regs := s.regs.accept i s.inst.latMax }

/-- An edge of a command in flight before its completion edge. -/
def State.countEdge (s : State) : State := { s with regs := s.regs.countDown }

end Sys2Proof.Machine
end

