-- ==== Sys2Proof/Machine/Operands.lean ====
section
/-! DEFINITION. Every way an operation reads its operands from the latched command: the shift amount, bit
index and extension position (30_encoding.md R72), a native scalar on `S` and on `RS` (R73), the source
width of `FROM_NARROW`, the low half of `A`. -/

namespace Sys2Proof.Machine

/-- `u(N) mod W`: the shift amount, the bit index, the bit position (30_encoding.md R72; 42_shift_extend.md
R148, R155; 41_compare_bitwise.md R143). -/
def index {w : Nat} (x : Command w) : Nat := x.n.toNat % w

/-- `t = W - 1 - p` for the extension position `p = u(N) mod W` (42_shift_extend.md R155). -/
def extendShift {w : Nat} (x : Command w) : Nat := w - 1 - index x

/-- The other reading of `t` (42_shift_extend.md R155): `W - 1 - u(N)` wrapped to 32 bits, then taken modulo
`W`. No meaning calls it; a statement says that it gives the same shift. -/
def extendShiftWrapped {w : Nat} (x : Command w) : Nat := (BitVec.ofNat 32 (w - 1) - x.n).toNat % w

/-- `S[k-1:0]`: a native scalar of `k` bits (30_encoding.md R73). -/
def scalarIn {w : Nat} (x : Command w) (k : Nat) : BitVec k := bitsAt x.s 0 k

/-- A native scalar of `k` bits on `RS`, with `RS[127:k] = 0` (30_encoding.md R73). -/
def scalarOut {k : Nat} (v : BitVec k) : Scalar := zextTo 128 v

/-- The family widths `FROM_NARROW` may name (40_constants_conversion.md R118). -/
def narrowWidths : List Nat := [8, 16, 32, 64, 128, 256, 512, 1024]

/-- `k` is a family width below `W` (40_constants_conversion.md R118). -/
def narrowLegal (w k : Nat) : Bool := decide (k ∈ narrowWidths) && decide (k < w)

/-- `A[H-1:0]` with `H = W/2` (46_serialization.md R210, R211). -/
def lowHalf {w : Nat} (x : Command w) : BitVec (w / 2) := bitsAt x.a 0 (w / 2)

end Sys2Proof.Machine
end

