-- ==== Sys2Proof/Machine/Flags.lean ====
section
/-! DEFINITION. Every computation of `FLAG` that is not constant (10_state.md R32): carry and borrow, the
signed overflow test of 43_add_sub.md R157, the two product tests of 44_multiply.md, equality and the
tested bit. -/

namespace Sys2Proof.Machine

/-- The carry out of bit `W-1` (43_add_sub.md R162). -/
def carryOut {w : Nat} (a b : BitVec w) : Bool := decide (u a + u b ≥ (2 ^ w : Nat))

/-- The borrow (43_add_sub.md R163; not strict, 90_conflicts.md C4). -/
def borrowOut {w : Nat} (a b : BitVec w) : Bool := decide (u a < u b)

/-- Signed overflow of a sum `r` (43_add_sub.md R157, R164). -/
def addOverflow {w : Nat} (a b r : BitVec w) : Bool := a.msb == b.msb && r.msb != a.msb

/-- Signed overflow of a difference `r` (43_add_sub.md R157, R165). -/
def subOverflow {w : Nat} (a b r : BitVec w) : Bool := a.msb != b.msb && r.msb != a.msb

/-- Unsigned overflow of a product with high half `hi` (44_multiply.md R194). -/
def mulOverflowU {w : Nat} (hi : BitVec w) : Bool := decide (hi ≠ cZero w)

/-- Signed overflow of a product: `hi` is not the sign extension of `lo` (44_multiply.md R195). -/
def mulOverflowS {w : Nat} (lo hi : BitVec w) : Bool :=
  decide (hi ≠ if lo.msb then cMaxU w else cZero w)

/-- Equality of bit patterns (41_compare_bitwise.md R132). -/
def equalFlag {w : Nat} (a b : BitVec w) : Bool := decide (a = b)

/-- `A[i]` (41_compare_bitwise.md R145). -/
def bitFlag {w : Nat} (a : BitVec w) (i : Nat) : Bool := a.getLsbD i

end Sys2Proof.Machine
end

