-- ==== Sys2Proof/Machine/Wide.lean ====
section
/-! DEFINITION. The double-width result of the widening operations (43_add_sub.md R170 to R173,
44_multiply.md R191 to R193). -/

namespace Sys2Proof.Machine

/-- The low half of `bv_2W(i)`. -/
def wideLo (w : Nat) (i : Int) : BitVec w := bitsAt (bv (2 * w) i) 0 w

/-- The high half of `bv_2W(i)`. -/
def wideHi (w : Nat) (i : Int) : BitVec w := bitsAt (bv (2 * w) i) w w

/-- `{R_HI, R_LO} <- bv_2W(i)`. -/
def wideResult {w : Nat} (i : Int) : Results w := { lo := wideLo w i, hi := wideHi w i }

end Sys2Proof.Machine
end

