-- ==== Sys2Proof/Machine/AddSub.lean ====
section
/-! DEFINITION. Addition and subtraction: wrapping, overflowing, saturating, widening, averaging
(43_add_sub.md R156 to R178). Each `<op>Result` is the
operation on a latched command, at any width; each `exec<Op>` writes it at the completion edge. -/

namespace Sys2Proof.Machine

/-- Where a signed result saturates: chosen by the first operand's sign (43_add_sub.md R168, R169). -/
def signedLimit {w : Nat} (a : BitVec w) : BitVec w := if a.msb then cMinS w else cMaxS w

/-- `ADD` (op `0x60`), rule R160. -/
def addResult {w : Nat} (x : Command w) : Results w := { lo := bv w (u x.a + u x.b) }

/-- `ADD` at its completion edge. -/
def execAdd (s : State) : Host.Outcome State Fault Refusal := s.complete (addResult s.cmd)

/-- `SUB` (op `0x61`), rule R161. -/
def subResult {w : Nat} (x : Command w) : Results w := { lo := bv w (u x.a - u x.b) }

/-- `SUB` at its completion edge. -/
def execSub (s : State) : Host.Outcome State Fault Refusal := s.complete (subResult s.cmd)

/-- `ADD_OVF_U` (op `0x62`), rule R162. -/
def addOvfUResult {w : Nat} (x : Command w) : Results w := { lo := bv w (u x.a + u x.b), flag := carryOut x.a x.b }

/-- `ADD_OVF_U` at its completion edge. -/
def execAddOvfU (s : State) : Host.Outcome State Fault Refusal := s.complete (addOvfUResult s.cmd)

/-- `SUB_OVF_U` (op `0x63`), rule R163. -/
def subOvfUResult {w : Nat} (x : Command w) : Results w := { lo := bv w (u x.a - u x.b), flag := borrowOut x.a x.b }

/-- `SUB_OVF_U` at its completion edge. -/
def execSubOvfU (s : State) : Host.Outcome State Fault Refusal := s.complete (subOvfUResult s.cmd)

/-- `ADD_OVF_S` (op `0x64`), rule R164. -/
def addOvfSResult {w : Nat} (x : Command w) : Results w :=
  let r := bv w (u x.a + u x.b)
  { lo := r, flag := addOverflow x.a x.b r }

/-- `ADD_OVF_S` at its completion edge. -/
def execAddOvfS (s : State) : Host.Outcome State Fault Refusal := s.complete (addOvfSResult s.cmd)

/-- `SUB_OVF_S` (op `0x65`), rule R165. -/
def subOvfSResult {w : Nat} (x : Command w) : Results w :=
  let r := bv w (u x.a - u x.b)
  { lo := r, flag := subOverflow x.a x.b r }

/-- `SUB_OVF_S` at its completion edge. -/
def execSubOvfS (s : State) : Host.Outcome State Fault Refusal := s.complete (subOvfSResult s.cmd)

/-- `ADD_SAT_U` (op `0x66`), rule R166. -/
def addSatUResult {w : Nat} (x : Command w) : Results w :=
  let y := addOvfUResult x
  { lo := if y.flag then cMaxU w else y.lo, flag := y.flag }

/-- `ADD_SAT_U` at its completion edge. -/
def execAddSatU (s : State) : Host.Outcome State Fault Refusal := s.complete (addSatUResult s.cmd)

/-- `SUB_SAT_U` (op `0x67`), rule R167. No saturation when `u(A) >= u(B)` (90_conflicts.md C4). -/
def subSatUResult {w : Nat} (x : Command w) : Results w :=
  let y := subOvfUResult x
  { lo := if y.flag then cMinU w else y.lo, flag := y.flag }

/-- `SUB_SAT_U` at its completion edge. -/
def execSubSatU (s : State) : Host.Outcome State Fault Refusal := s.complete (subSatUResult s.cmd)

/-- `ADD_SAT_S` (op `0x68`), rule R168. -/
def addSatSResult {w : Nat} (x : Command w) : Results w :=
  let y := addOvfSResult x
  { lo := if y.flag then signedLimit x.a else y.lo, flag := y.flag }

/-- `ADD_SAT_S` at its completion edge. -/
def execAddSatS (s : State) : Host.Outcome State Fault Refusal := s.complete (addSatSResult s.cmd)

/-- `SUB_SAT_S` (op `0x69`), rule R169. -/
def subSatSResult {w : Nat} (x : Command w) : Results w :=
  let y := subOvfSResult x
  { lo := if y.flag then signedLimit x.a else y.lo, flag := y.flag }

/-- `SUB_SAT_S` at its completion edge. -/
def execSubSatS (s : State) : Host.Outcome State Fault Refusal := s.complete (subSatSResult s.cmd)

/-- `ADD_WIDE_U` (op `0x6A`), rule R170. -/
def addWideUResult {w : Nat} (x : Command w) : Results w := wideResult (u x.a + u x.b)

/-- `ADD_WIDE_U` at its completion edge. -/
def execAddWideU (s : State) : Host.Outcome State Fault Refusal := s.complete (addWideUResult s.cmd)

/-- `SUB_WIDE_U` (op `0x6B`), rule R171. -/
def subWideUResult {w : Nat} (x : Command w) : Results w := wideResult (u x.a - u x.b)

/-- `SUB_WIDE_U` at its completion edge. -/
def execSubWideU (s : State) : Host.Outcome State Fault Refusal := s.complete (subWideUResult s.cmd)

/-- `ADD_WIDE_S` (op `0x6C`), rule R172. -/
def addWideSResult {w : Nat} (x : Command w) : Results w := wideResult (sgn x.a + sgn x.b)

/-- `ADD_WIDE_S` at its completion edge. -/
def execAddWideS (s : State) : Host.Outcome State Fault Refusal := s.complete (addWideSResult s.cmd)

/-- `SUB_WIDE_S` (op `0x6D`), rule R173. -/
def subWideSResult {w : Nat} (x : Command w) : Results w := wideResult (sgn x.a - sgn x.b)

/-- `SUB_WIDE_S` at its completion edge. -/
def execSubWideS (s : State) : Host.Outcome State Fault Refusal := s.complete (subWideSResult s.cmd)

/-- `AVG_ADD_U` (op `0x70`), rule R175. -/
def avgAddUResult {w : Nat} (x : Command w) : Results w := { lo := bv w (fdiv (u x.a + u x.b) 2) }

/-- `AVG_ADD_U` at its completion edge. -/
def execAvgAddU (s : State) : Host.Outcome State Fault Refusal := s.complete (avgAddUResult s.cmd)

/-- `AVG_SUB_U` (op `0x71`), rule R176. -/
def avgSubUResult {w : Nat} (x : Command w) : Results w := { lo := bv w (fdiv (u x.a - u x.b) 2) }

/-- `AVG_SUB_U` at its completion edge. -/
def execAvgSubU (s : State) : Host.Outcome State Fault Refusal := s.complete (avgSubUResult s.cmd)

/-- `AVG_ADD_S` (op `0x72`), rule R177. -/
def avgAddSResult {w : Nat} (x : Command w) : Results w := { lo := bv w (fdiv (sgn x.a + sgn x.b) 2) }

/-- `AVG_ADD_S` at its completion edge. -/
def execAvgAddS (s : State) : Host.Outcome State Fault Refusal := s.complete (avgAddSResult s.cmd)

/-- `AVG_SUB_S` (op `0x73`), rule R178. -/
def avgSubSResult {w : Nat} (x : Command w) : Results w := { lo := bv w (fdiv (sgn x.a - sgn x.b) 2) }

/-- `AVG_SUB_S` at its completion edge. -/
def execAvgSubS (s : State) : Host.Outcome State Fault Refusal := s.complete (avgSubSResult s.cmd)

end Sys2Proof.Machine
end

