-- ==== Sys2Proof/Machine/Bitwise.lean ====
section
/-! DEFINITION. Bitwise operations, bit scan and bit test (41_compare_bitwise.md R134 to R147). Each `<op>Result` is the
operation on a latched command, at any width; each `exec<Op>` writes it at the completion edge. -/

namespace Sys2Proof.Machine

/-- `AND` (op `0x40`), rule R135. -/
def andResult {w : Nat} (x : Command w) : Results w := { lo := x.a &&& x.b }

/-- `AND` at its completion edge. -/
def execAnd (s : State) : Host.Outcome State Fault Refusal := s.complete (andResult s.cmd)

/-- `OR` (op `0x41`), rule R136. -/
def orResult {w : Nat} (x : Command w) : Results w := { lo := x.a ||| x.b }

/-- `OR` at its completion edge. -/
def execOr (s : State) : Host.Outcome State Fault Refusal := s.complete (orResult s.cmd)

/-- `XOR` (op `0x42`), rule R137. -/
def xorResult {w : Nat} (x : Command w) : Results w := { lo := x.a ^^^ x.b }

/-- `XOR` at its completion edge. -/
def execXor (s : State) : Host.Outcome State Fault Refusal := s.complete (xorResult s.cmd)

/-- `NOT` (op `0x43`), rule R138. -/
def notResult {w : Nat} (x : Command w) : Results w := { lo := ~~~x.a }

/-- `NOT` at its completion edge. -/
def execNot (s : State) : Host.Outcome State Fault Refusal := s.complete (notResult s.cmd)

/-- `CLZ` (op `0x44`), rule R139. -/
def clzResult {w : Nat} (x : Command w) : Results w := { lo := bv w (zerosBelow x.a w) }

/-- `CLZ` at its completion edge. -/
def execClz (s : State) : Host.Outcome State Fault Refusal := s.complete (clzResult s.cmd)

/-- `CTZ` (op `0x45`), rule R140. -/
def ctzResult {w : Nat} (x : Command w) : Results w := { lo := bv w (zerosFrom x.a 0 w) }

/-- `CTZ` at its completion edge. -/
def execCtz (s : State) : Host.Outcome State Fault Refusal := s.complete (ctzResult s.cmd)

/-- `CPOP` (op `0x46`), rule R141. -/
def cpopResult {w : Nat} (x : Command w) : Results w := { lo := bv w (popcount x.a) }

/-- `CPOP` at its completion edge. -/
def execCpop (s : State) : Host.Outcome State Fault Refusal := s.complete (cpopResult s.cmd)

/-- `BIT` (op `0x47`), rule R145. -/
def bitResult {w : Nat} (x : Command w) : Results w :=
  let flag := bitFlag x.a (index x)
  { lo := ofBool w flag, flag := flag }

/-- `BIT` at its completion edge. -/
def execBit (s : State) : Host.Outcome State Fault Refusal := s.complete (bitResult s.cmd)

/-- `BIT_SET` (op `0x48`), rule R146. The changed receiver is the result; no latch changes (20_memory.md R61). -/
def bitSetResult {w : Nat} (x : Command w) : Results w := { lo := x.a ||| (cOne w <<< index x) }

/-- `BIT_SET` at its completion edge. -/
def execBitSet (s : State) : Host.Outcome State Fault Refusal := s.complete (bitSetResult s.cmd)

/-- `BIT_CLR` (op `0x49`), rule R147. The changed receiver is the result; no latch changes (20_memory.md R61). -/
def bitClrResult {w : Nat} (x : Command w) : Results w := { lo := x.a &&& ~~~(cOne w <<< index x) }

/-- `BIT_CLR` at its completion edge. -/
def execBitClr (s : State) : Host.Outcome State Fault Refusal := s.complete (bitClrResult s.cmd)

end Sys2Proof.Machine
end

