-- ==== Sys2Proof/Machine/Compare.lean ====
section
/-! DEFINITION. Comparison (41_compare_bitwise.md R129 to R132). Each `<op>Result` is the
operation on a latched command, at any width; each `exec<Op>` writes it at the completion edge. -/

namespace Sys2Proof.Machine

/-- `ord(x, y)`: `MAX_U` for `Less`, `ZERO` for `Equal`, `ONE` for `Greater` (41_compare_bitwise.md R129). -/
def ordering (w : Nat) (x y : Int) : BitVec w :=
  if x < y then cMaxU w else if x = y then cZero w else cOne w

/-- `CMP_U` (op `0x30`), rule R130. -/
def cmpUResult {w : Nat} (x : Command w) : Results w := { lo := ordering w (u x.a) (u x.b) }

/-- `CMP_U` at its completion edge. -/
def execCmpU (s : State) : Host.Outcome State Fault Refusal := s.complete (cmpUResult s.cmd)

/-- `CMP_S` (op `0x31`), rule R131. -/
def cmpSResult {w : Nat} (x : Command w) : Results w := { lo := ordering w (sgn x.a) (sgn x.b) }

/-- `CMP_S` at its completion edge. -/
def execCmpS (s : State) : Host.Outcome State Fault Refusal := s.complete (cmpSResult s.cmd)

/-- `EQ` (op `0x32`), rule R132. -/
def eqResult {w : Nat} (x : Command w) : Results w :=
  let flag := equalFlag x.a x.b
  { lo := ofBool w flag, flag := flag }

/-- `EQ` at its completion edge. -/
def execEq (s : State) : Host.Outcome State Fault Refusal := s.complete (eqResult s.cmd)

end Sys2Proof.Machine
end

