-- ==== Sys2Proof/Machine/Constants.lean ====
section
/-! DEFINITION. The constants as commands (40_constants_conversion.md R100 to R105). Each `<op>Result` is the
operation on a latched command, at any width; each `exec<Op>` writes it at the completion edge. -/

namespace Sys2Proof.Machine

/-- `ZERO` (op `0x01`), rule R100. -/
def zeroResult {w : Nat} (_x : Command w) : Results w := { lo := bv w 0 }

/-- `ZERO` at its completion edge. -/
def execZero (s : State) : Host.Outcome State Fault Refusal := s.complete (zeroResult s.cmd)

/-- `ONE` (op `0x02`), rule R101. -/
def oneResult {w : Nat} (_x : Command w) : Results w := { lo := bv w 1 }

/-- `ONE` at its completion edge. -/
def execOne (s : State) : Host.Outcome State Fault Refusal := s.complete (oneResult s.cmd)

/-- `MIN_U` (op `0x03`), rule R102. -/
def minUResult {w : Nat} (_x : Command w) : Results w := { lo := bv w 0 }

/-- `MIN_U` at its completion edge. -/
def execMinU (s : State) : Host.Outcome State Fault Refusal := s.complete (minUResult s.cmd)

/-- `MAX_U` (op `0x04`), rule R103. -/
def maxUResult {w : Nat} (_x : Command w) : Results w := { lo := bv w ((2 ^ w : Nat) - 1) }

/-- `MAX_U` at its completion edge. -/
def execMaxU (s : State) : Host.Outcome State Fault Refusal := s.complete (maxUResult s.cmd)

/-- `MIN_S` (op `0x05`), rule R104. `MIN_U` with the sign bit set (90_conflicts.md C2). -/
def minSResult {w : Nat} (_x : Command w) : Results w := { lo := bv w (2 ^ (w - 1) : Nat) }

/-- `MIN_S` at its completion edge. -/
def execMinS (s : State) : Host.Outcome State Fault Refusal := s.complete (minSResult s.cmd)

/-- `MAX_S` (op `0x06`), rule R105. `MAX_U` with the sign bit cleared (90_conflicts.md C2). -/
def maxSResult {w : Nat} (_x : Command w) : Results w := { lo := bv w ((2 ^ (w - 1) : Nat) - 1) }

/-- `MAX_S` at its completion edge. -/
def execMaxS (s : State) : Host.Outcome State Fault Refusal := s.complete (maxSResult s.cmd)

end Sys2Proof.Machine
end

