-- ==== Sys2Proof/Machine/Convert.lean ====
section
/-! DEFINITION. Conversions from and to native scalars and from narrower widths
(40_constants_conversion.md R106 to R128). Each `<op>Result` is the
operation on a latched command, at any width; each `exec<Op>` writes it at the completion edge. -/

namespace Sys2Proof.Machine

/-- `FROM_BOOL` (op `0x10`), rule R107. -/
def fromBoolResult {w : Nat} (x : Command w) : Results w := { lo := zextTo w (scalarIn x 1) }

/-- `FROM_BOOL` at its completion edge. -/
def execFromBool (s : State) : Host.Outcome State Fault Refusal := s.complete (fromBoolResult s.cmd)

/-- `FROM_U8` (op `0x11`), rule R108. -/
def fromU8Result {w : Nat} (x : Command w) : Results w := { lo := zextTo w (scalarIn x 8) }

/-- `FROM_U8` at its completion edge. -/
def execFromU8 (s : State) : Host.Outcome State Fault Refusal := s.complete (fromU8Result s.cmd)

/-- `FROM_U16` (op `0x12`), rule R109. -/
def fromU16Result {w : Nat} (x : Command w) : Results w := { lo := zextTo w (scalarIn x 16) }

/-- `FROM_U16` at its completion edge. -/
def execFromU16 (s : State) : Host.Outcome State Fault Refusal := s.complete (fromU16Result s.cmd)

/-- `FROM_U32` (op `0x13`), rule R110. -/
def fromU32Result {w : Nat} (x : Command w) : Results w := { lo := zextTo w (scalarIn x 32) }

/-- `FROM_U32` at its completion edge. -/
def execFromU32 (s : State) : Host.Outcome State Fault Refusal := s.complete (fromU32Result s.cmd)

/-- `FROM_U64` (op `0x14`), rule R111. -/
def fromU64Result {w : Nat} (x : Command w) : Results w := { lo := zextTo w (scalarIn x 64) }

/-- `FROM_U64` at its completion edge. -/
def execFromU64 (s : State) : Host.Outcome State Fault Refusal := s.complete (fromU64Result s.cmd)

/-- `FROM_U128` (op `0x15`), rule R112. -/
def fromU128Result {w : Nat} (x : Command w) : Results w := { lo := zextTo w (scalarIn x 128) }

/-- `FROM_U128` at its completion edge. -/
def execFromU128 (s : State) : Host.Outcome State Fault Refusal := s.complete (fromU128Result s.cmd)

/-- `FROM_I8` (op `0x19`), rule R113. -/
def fromI8Result {w : Nat} (x : Command w) : Results w := { lo := sextTo w (scalarIn x 8) }

/-- `FROM_I8` at its completion edge. -/
def execFromI8 (s : State) : Host.Outcome State Fault Refusal := s.complete (fromI8Result s.cmd)

/-- `FROM_I16` (op `0x1A`), rule R114. Truncates when W is smaller, by `sextTo`. -/
def fromI16Result {w : Nat} (x : Command w) : Results w := { lo := sextTo w (scalarIn x 16) }

/-- `FROM_I16` at its completion edge. -/
def execFromI16 (s : State) : Host.Outcome State Fault Refusal := s.complete (fromI16Result s.cmd)

/-- `FROM_I32` (op `0x1B`), rule R115. Truncates when W is smaller, by `sextTo`. -/
def fromI32Result {w : Nat} (x : Command w) : Results w := { lo := sextTo w (scalarIn x 32) }

/-- `FROM_I32` at its completion edge. -/
def execFromI32 (s : State) : Host.Outcome State Fault Refusal := s.complete (fromI32Result s.cmd)

/-- `FROM_I64` (op `0x1C`), rule R116. Truncates when W is smaller, by `sextTo`. -/
def fromI64Result {w : Nat} (x : Command w) : Results w := { lo := sextTo w (scalarIn x 64) }

/-- `FROM_I64` at its completion edge. -/
def execFromI64 (s : State) : Host.Outcome State Fault Refusal := s.complete (fromI64Result s.cmd)

/-- `FROM_I128` (op `0x1D`), rule R117. Truncates when W is smaller, by `sextTo`. -/
def fromI128Result {w : Nat} (x : Command w) : Results w := { lo := sextTo w (scalarIn x 128) }

/-- `FROM_I128` at its completion edge. -/
def execFromI128 (s : State) : Host.Outcome State Fault Refusal := s.complete (fromI128Result s.cmd)

/-- `FROM_NARROW` (op `0x1F`), rule R118. The source width is `u(N)`, whole. -/
def fromNarrowResult {w : Nat} (x : Command w) : Results w :=
  let k := x.n.toNat
  if narrowLegal w k then { lo := zextTo w (bitsAt x.a 0 k) } else raiseIllegalOperand w

/-- `FROM_NARROW` at its completion edge. -/
def execFromNarrow (s : State) : Host.Outcome State Fault Refusal := s.complete (fromNarrowResult s.cmd)

/-- `TO_U8` (op `0x21`), rule R119. -/
def toU8Result {w : Nat} (x : Command w) : Results w := { rs := scalarOut (zextTo 8 x.a) }

/-- `TO_U8` at its completion edge. -/
def execToU8 (s : State) : Host.Outcome State Fault Refusal := s.complete (toU8Result s.cmd)

/-- `TO_U16` (op `0x22`), rule R120. -/
def toU16Result {w : Nat} (x : Command w) : Results w := { rs := scalarOut (zextTo 16 x.a) }

/-- `TO_U16` at its completion edge. -/
def execToU16 (s : State) : Host.Outcome State Fault Refusal := s.complete (toU16Result s.cmd)

/-- `TO_U32` (op `0x23`), rule R121. -/
def toU32Result {w : Nat} (x : Command w) : Results w := { rs := scalarOut (zextTo 32 x.a) }

/-- `TO_U32` at its completion edge. -/
def execToU32 (s : State) : Host.Outcome State Fault Refusal := s.complete (toU32Result s.cmd)

/-- `TO_U64` (op `0x24`), rule R122. -/
def toU64Result {w : Nat} (x : Command w) : Results w := { rs := scalarOut (zextTo 64 x.a) }

/-- `TO_U64` at its completion edge. -/
def execToU64 (s : State) : Host.Outcome State Fault Refusal := s.complete (toU64Result s.cmd)

/-- `TO_U128` (op `0x25`), rule R123. -/
def toU128Result {w : Nat} (x : Command w) : Results w := { rs := zextTo 128 x.a }

/-- `TO_U128` at its completion edge. -/
def execToU128 (s : State) : Host.Outcome State Fault Refusal := s.complete (toU128Result s.cmd)

/-- `TO_I8` (op `0x29`), rule R124. `trunc_8(A)`: every W is at least 8. -/
def toI8Result {w : Nat} (x : Command w) : Results w := { rs := scalarOut (zextTo 8 x.a) }

/-- `TO_I8` at its completion edge. -/
def execToI8 (s : State) : Host.Outcome State Fault Refusal := s.complete (toI8Result s.cmd)

/-- `TO_I16` (op `0x2A`), rule R125. -/
def toI16Result {w : Nat} (x : Command w) : Results w := { rs := scalarOut (sextTo 16 x.a) }

/-- `TO_I16` at its completion edge. -/
def execToI16 (s : State) : Host.Outcome State Fault Refusal := s.complete (toI16Result s.cmd)

/-- `TO_I32` (op `0x2B`), rule R126. -/
def toI32Result {w : Nat} (x : Command w) : Results w := { rs := scalarOut (sextTo 32 x.a) }

/-- `TO_I32` at its completion edge. -/
def execToI32 (s : State) : Host.Outcome State Fault Refusal := s.complete (toI32Result s.cmd)

/-- `TO_I64` (op `0x2C`), rule R127. -/
def toI64Result {w : Nat} (x : Command w) : Results w := { rs := scalarOut (sextTo 64 x.a) }

/-- `TO_I64` at its completion edge. -/
def execToI64 (s : State) : Host.Outcome State Fault Refusal := s.complete (toI64Result s.cmd)

/-- `TO_I128` (op `0x2D`), rule R128. -/
def toI128Result {w : Nat} (x : Command w) : Results w := { rs := sextTo 128 x.a }

/-- `TO_I128` at its completion edge. -/
def execToI128 (s : State) : Host.Outcome State Fault Refusal := s.complete (toI128Result s.cmd)

end Sys2Proof.Machine
end

