-- ==== Sys2Proof/Machine/Divide.lean ====
section
/-! DEFINITION. Division and remainder: total, none traps (45_divide.md R200 to R204). Each `<op>Result` is the
operation on a latched command, at any width; each `exec<Op>` writes it at the completion edge. -/

namespace Sys2Proof.Machine

/-- `DIV_U` (op `0x90`), rule R200. -/
def divUResult {w : Nat} (x : Command w) : Results w := if u x.b = 0 then { lo := cMaxU w } else { lo := bv w (fdiv (u x.a) (u x.b)) }

/-- `DIV_U` at its completion edge. -/
def execDivU (s : State) : Host.Outcome State Fault Refusal := s.complete (divUResult s.cmd)

/-- `DIV_S` (op `0x91`), rule R201. The special cases come first (90_conflicts.md C7). -/
def divSResult {w : Nat} (x : Command w) : Results w :=
  if x.b = cZero w then { lo := cMaxU w }
  else if x.a = cMinS w ∧ x.b = cMaxU w then { lo := cMinS w }
  else { lo := bv w (tdiv (sgn x.a) (sgn x.b)) }

/-- `DIV_S` at its completion edge. -/
def execDivS (s : State) : Host.Outcome State Fault Refusal := s.complete (divSResult s.cmd)

/-- `REM_U` (op `0x92`), rule R202. By zero it is `A`, never `ZERO` (90_conflicts.md C3). -/
def remUResult {w : Nat} (x : Command w) : Results w := if u x.b = 0 then { lo := x.a } else { lo := bv w (u x.a - u x.b * fdiv (u x.a) (u x.b)) }

/-- `REM_U` at its completion edge. -/
def execRemU (s : State) : Host.Outcome State Fault Refusal := s.complete (remUResult s.cmd)

/-- `REM_S` (op `0x93`), rule R203. -/
def remSResult {w : Nat} (x : Command w) : Results w :=
  if x.b = cZero w then { lo := x.a }
  else if x.a = cMinS w ∧ x.b = cMaxU w then { lo := cZero w }
  else { lo := bv w (trem (sgn x.a) (sgn x.b)) }

/-- `REM_S` at its completion edge. -/
def execRemS (s : State) : Host.Outcome State Fault Refusal := s.complete (remSResult s.cmd)

end Sys2Proof.Machine
end

