-- ==== Sys2Proof/Machine/LowHalf.lean ====
section
/-! DEFINITION. Low-half extraction and low-half sign extension (46_serialization.md R210, R211). Each `<op>Result` is the
operation on a latched command, at any width; each `exec<Op>` writes it at the completion edge. -/

namespace Sys2Proof.Machine

/-- `PUT_LO` (op `0xA0`), rule R210. At W = 8 the half has no byte image (90_conflicts.md C8). -/
def putLoResult {w : Nat} (x : Command w) : Results w := if w = 8 then raiseIllegalOp w else { lo := zextTo w (lowHalf x) }

/-- `PUT_LO` at its completion edge. -/
def execPutLo (s : State) : Host.Outcome State Fault Refusal := s.complete (putLoResult s.cmd)

/-- `LO_SEXT` (op `0xA1`), rule R211. -/
def loSextResult {w : Nat} (x : Command w) : Results w := { lo := sextTo w (lowHalf x) }

/-- `LO_SEXT` at its completion edge. -/
def execLoSext (s : State) : Host.Outcome State Fault Refusal := s.complete (loSextResult s.cmd)

end Sys2Proof.Machine
end

