-- ==== Sys2Proof/Machine/Multiply.lean ====
section
/-! DEFINITION. Multiplication: wrapping, widening, overflow-checked (44_multiply.md R190 to R195). Each `<op>Result` is the
operation on a latched command, at any width; each `exec<Op>` writes it at the completion edge. -/

namespace Sys2Proof.Machine

/-- `MUL` (op `0x80`), rule R190. -/
def mulResult {w : Nat} (x : Command w) : Results w := { lo := bv w (u x.a * u x.b) }

/-- `MUL` at its completion edge. -/
def execMul (s : State) : Host.Outcome State Fault Refusal := s.complete (mulResult s.cmd)

/-- `MUL_WIDE_U` (op `0x81`), rule R191. -/
def mulWideUResult {w : Nat} (x : Command w) : Results w := wideResult (u x.a * u x.b)

/-- `MUL_WIDE_U` at its completion edge. -/
def execMulWideU (s : State) : Host.Outcome State Fault Refusal := s.complete (mulWideUResult s.cmd)

/-- `MUL_WIDE_S` (op `0x82`), rule R192. -/
def mulWideSResult {w : Nat} (x : Command w) : Results w := wideResult (sgn x.a * sgn x.b)

/-- `MUL_WIDE_S` at its completion edge. -/
def execMulWideS (s : State) : Host.Outcome State Fault Refusal := s.complete (mulWideSResult s.cmd)

/-- `MUL_WIDE_SU` (op `0x83`), rule R193. `A` is signed and `B` unsigned (92_eei_decisions.md D23). -/
def mulWideSUResult {w : Nat} (x : Command w) : Results w := wideResult (sgn x.a * u x.b)

/-- `MUL_WIDE_SU` at its completion edge. -/
def execMulWideSU (s : State) : Host.Outcome State Fault Refusal := s.complete (mulWideSUResult s.cmd)

/-- `MUL_OVF_U` (op `0x84`), rule R194. -/
def mulOvfUResult {w : Nat} (x : Command w) : Results w :=
  let y := mulWideUResult x
  { lo := y.lo, flag := mulOverflowU y.hi }

/-- `MUL_OVF_U` at its completion edge. -/
def execMulOvfU (s : State) : Host.Outcome State Fault Refusal := s.complete (mulOvfUResult s.cmd)

/-- `MUL_OVF_S` (op `0x85`), rule R195. -/
def mulOvfSResult {w : Nat} (x : Command w) : Results w :=
  let y := mulWideSResult x
  { lo := y.lo, flag := mulOverflowS y.lo y.hi }

/-- `MUL_OVF_S` at its completion edge. -/
def execMulOvfS (s : State) : Host.Outcome State Fault Refusal := s.complete (mulOvfSResult s.cmd)

end Sys2Proof.Machine
end

