-- ==== Sys2Proof/Machine/Shift.lean ====
section
/-! DEFINITION. Shifts, sign and zero extension (42_shift_extend.md R148 to R155). Each `<op>Result` is the
operation on a latched command, at any width; each `exec<Op>` writes it at the completion edge. -/

namespace Sys2Proof.Machine

/-- `SHL` (op `0x50`), rule R150. -/
def shlResult {w : Nat} (x : Command w) : Results w := { lo := x.a <<< index x }

/-- `SHL` at its completion edge. -/
def execShl (s : State) : Host.Outcome State Fault Refusal := s.complete (shlResult s.cmd)

/-- `SHR` (op `0x51`), rule R151. -/
def shrResult {w : Nat} (x : Command w) : Results w := { lo := x.a >>> index x }

/-- `SHR` at its completion edge. -/
def execShr (s : State) : Host.Outcome State Fault Refusal := s.complete (shrResult s.cmd)

/-- `SRA` (op `0x52`), rule R152. The vacated bits are copies of the sign bit (90_conflicts.md C6). -/
def sraResult {w : Nat} (x : Command w) : Results w := { lo := x.a.sshiftRight (index x) }

/-- `SRA` at its completion edge. -/
def execSra (s : State) : Host.Outcome State Fault Refusal := s.complete (sraResult s.cmd)

/-- `SEXT` (op `0x53`), rule R153. -/
def sextResult {w : Nat} (x : Command w) : Results w :=
  let t := extendShift x
  { lo := (x.a <<< t).sshiftRight t }

/-- `SEXT` at its completion edge. -/
def execSext (s : State) : Host.Outcome State Fault Refusal := s.complete (sextResult s.cmd)

/-- `ZEXT` (op `0x54`), rule R154. -/
def zextResult {w : Nat} (x : Command w) : Results w :=
  let t := extendShift x
  { lo := (x.a <<< t) >>> t }

/-- `ZEXT` at its completion edge. -/
def execZext (s : State) : Host.Outcome State Fault Refusal := s.complete (zextResult s.cmd)

end Sys2Proof.Machine
end

