-- ==== Sys2Proof/Machine/Dispatch.lean ====
section
/-! DEFINITION. One arm per operation: the meaning it has at its completion edge. -/

namespace Sys2Proof.Machine

def exec (i : Instr) (s : State) : Host.Outcome State Fault Refusal :=
  match i with
  | .zero => Sys2Proof.Machine.execZero s
  | .one => Sys2Proof.Machine.execOne s
  | .minU => Sys2Proof.Machine.execMinU s
  | .maxU => Sys2Proof.Machine.execMaxU s
  | .minS => Sys2Proof.Machine.execMinS s
  | .maxS => Sys2Proof.Machine.execMaxS s
  | .fromBool => Sys2Proof.Machine.execFromBool s
  | .fromU8 => Sys2Proof.Machine.execFromU8 s
  | .fromU16 => Sys2Proof.Machine.execFromU16 s
  | .fromU32 => Sys2Proof.Machine.execFromU32 s
  | .fromU64 => Sys2Proof.Machine.execFromU64 s
  | .fromU128 => Sys2Proof.Machine.execFromU128 s
  | .fromI8 => Sys2Proof.Machine.execFromI8 s
  | .fromI16 => Sys2Proof.Machine.execFromI16 s
  | .fromI32 => Sys2Proof.Machine.execFromI32 s
  | .fromI64 => Sys2Proof.Machine.execFromI64 s
  | .fromI128 => Sys2Proof.Machine.execFromI128 s
  | .fromNarrow => Sys2Proof.Machine.execFromNarrow s
  | .toU8 => Sys2Proof.Machine.execToU8 s
  | .toU16 => Sys2Proof.Machine.execToU16 s
  | .toU32 => Sys2Proof.Machine.execToU32 s
  | .toU64 => Sys2Proof.Machine.execToU64 s
  | .toU128 => Sys2Proof.Machine.execToU128 s
  | .toI8 => Sys2Proof.Machine.execToI8 s
  | .toI16 => Sys2Proof.Machine.execToI16 s
  | .toI32 => Sys2Proof.Machine.execToI32 s
  | .toI64 => Sys2Proof.Machine.execToI64 s
  | .toI128 => Sys2Proof.Machine.execToI128 s
  | .cmpU => Sys2Proof.Machine.execCmpU s
  | .cmpS => Sys2Proof.Machine.execCmpS s
  | .eq => Sys2Proof.Machine.execEq s
  | .and => Sys2Proof.Machine.execAnd s
  | .or => Sys2Proof.Machine.execOr s
  | .xor => Sys2Proof.Machine.execXor s
  | .not => Sys2Proof.Machine.execNot s
  | .clz => Sys2Proof.Machine.execClz s
  | .ctz => Sys2Proof.Machine.execCtz s
  | .cpop => Sys2Proof.Machine.execCpop s
  | .bit => Sys2Proof.Machine.execBit s
  | .bitSet => Sys2Proof.Machine.execBitSet s
  | .bitClr => Sys2Proof.Machine.execBitClr s
  | .shl => Sys2Proof.Machine.execShl s
  | .shr => Sys2Proof.Machine.execShr s
  | .sra => Sys2Proof.Machine.execSra s
  | .sext => Sys2Proof.Machine.execSext s
  | .zext => Sys2Proof.Machine.execZext s
  | .add => Sys2Proof.Machine.execAdd s
  | .sub => Sys2Proof.Machine.execSub s
  | .addOvfU => Sys2Proof.Machine.execAddOvfU s
  | .subOvfU => Sys2Proof.Machine.execSubOvfU s
  | .addOvfS => Sys2Proof.Machine.execAddOvfS s
  | .subOvfS => Sys2Proof.Machine.execSubOvfS s
  | .addSatU => Sys2Proof.Machine.execAddSatU s
  | .subSatU => Sys2Proof.Machine.execSubSatU s
  | .addSatS => Sys2Proof.Machine.execAddSatS s
  | .subSatS => Sys2Proof.Machine.execSubSatS s
  | .addWideU => Sys2Proof.Machine.execAddWideU s
  | .subWideU => Sys2Proof.Machine.execSubWideU s
  | .addWideS => Sys2Proof.Machine.execAddWideS s
  | .subWideS => Sys2Proof.Machine.execSubWideS s
  | .avgAddU => Sys2Proof.Machine.execAvgAddU s
  | .avgSubU => Sys2Proof.Machine.execAvgSubU s
  | .avgAddS => Sys2Proof.Machine.execAvgAddS s
  | .avgSubS => Sys2Proof.Machine.execAvgSubS s
  | .mul => Sys2Proof.Machine.execMul s
  | .mulWideU => Sys2Proof.Machine.execMulWideU s
  | .mulWideS => Sys2Proof.Machine.execMulWideS s
  | .mulWideSU => Sys2Proof.Machine.execMulWideSU s
  | .mulOvfU => Sys2Proof.Machine.execMulOvfU s
  | .mulOvfS => Sys2Proof.Machine.execMulOvfS s
  | .divU => Sys2Proof.Machine.execDivU s
  | .divS => Sys2Proof.Machine.execDivS s
  | .remU => Sys2Proof.Machine.execRemU s
  | .remS => Sys2Proof.Machine.execRemS s
  | .putLo => Sys2Proof.Machine.execPutLo s
  | .loSext => Sys2Proof.Machine.execLoSext s

end Sys2Proof.Machine
end

