-- ==== Sys2Proof/Machine/Placement.lean ====
section
/-! DEFINITION. Placing a command so that the next step completes it (log entry 7). The block fetches
nothing (10_state.md R21): the host presents a command, an edge accepts it, and `LAT` edges later it
completes. This puts an instance at the last of those edges. -/

namespace Sys2Proof.Machine

/-- The next edge has no reset. -/
def quietNext {w : Nat} : List (Inputs w) → List (Inputs w)
  | [] => []
  | i :: rest => { i with rst := false } :: rest

/-- The command with opcode `op` is in flight and its completion edge is next. -/
def State.placeOpcode (s : State) (op : Opcode) : State :=
  { s with
    regs := { s.regs with busy := true, done := false, opl := op, cnt := 0 }
    inputs := quietNext s.inputs }

end Sys2Proof.Machine
end

