-- ==== Sys2Proof/Machine/Step.lean ====
section
/-! DEFINITION. One step is one rising edge of `clk` (10_state.md R36). -/

namespace Sys2Proof.Machine

/-- The completion edge (10_state.md R30): the operation the latched opcode selects, or the `IllegalOp`
outcome of a reserved opcode, which completes like any other command (30_encoding.md R75). -/
def completeEdge (s : State) : Host.Outcome State Fault Refusal :=
  match decode s.regs.opl with
  | .ok i => exec i s
  | .error _ => s.complete (raiseIllegalOp s.inst.width.bits)

/-- What a rising edge does to the registers, in the order of 10_state.md R36: reset first; then, when busy,
completion or counting (`start` is ignored, R29); when idle, acceptance if `start = 1`. DESIGN CHOICE (log
entry 8): the same from a state that no reset edge has reached, where the spec leaves a command's results
open. -/
def edge (s : State) : Host.Outcome State Fault Refusal :=
  if s.now.rst then .next s.resetEdge
  else if s.regs.busy then
    if s.regs.cnt = 0 then completeEdge s else .next s.countEdge
  else if s.now.start then .next (s.acceptEdge s.now)
  else .next s

/-- One rising edge of `clk`: the registers change by `edge`, and the port levels of that edge are used up. -/
def step (s : State) : Host.Outcome State Fault Refusal := advanceNext (edge s)

/-- `s` with the command of opcode `w` in its latches and its completion edge next, so that the very next
step runs it. The operand latches stay as they are (log entry 7). -/
def State.withFetchWord (s : State) (nbits w : Nat) : State :=
  s.placeOpcode (BitVec.ofNat 8 (w % 2 ^ nbits))

end Sys2Proof.Machine
end

