-- ==== Sys2Proof/Machine/Transaction.lean ====
section
/-! DEFINITION. The transaction-level meaning `F_W` of a command (10_state.md R34): one total function from
the five fields of a command to the five result registers. `exec` does the same thing edge by edge; that
the two agree is a statement about the model. -/

namespace Sys2Proof.Machine

/-- The results of an operation applied to a command's operands. -/
def opResult {w : Nat} (i : Instr) (x : Command w) : Results w :=
  match i with
  | .zero => zeroResult x
  | .one => oneResult x
  | .minU => minUResult x
  | .maxU => maxUResult x
  | .minS => minSResult x
  | .maxS => maxSResult x
  | .fromBool => fromBoolResult x
  | .fromU8 => fromU8Result x
  | .fromU16 => fromU16Result x
  | .fromU32 => fromU32Result x
  | .fromU64 => fromU64Result x
  | .fromU128 => fromU128Result x
  | .fromI8 => fromI8Result x
  | .fromI16 => fromI16Result x
  | .fromI32 => fromI32Result x
  | .fromI64 => fromI64Result x
  | .fromI128 => fromI128Result x
  | .fromNarrow => fromNarrowResult x
  | .toU8 => toU8Result x
  | .toU16 => toU16Result x
  | .toU32 => toU32Result x
  | .toU64 => toU64Result x
  | .toU128 => toU128Result x
  | .toI8 => toI8Result x
  | .toI16 => toI16Result x
  | .toI32 => toI32Result x
  | .toI64 => toI64Result x
  | .toI128 => toI128Result x
  | .cmpU => cmpUResult x
  | .cmpS => cmpSResult x
  | .eq => eqResult x
  | .and => andResult x
  | .or => orResult x
  | .xor => xorResult x
  | .not => notResult x
  | .clz => clzResult x
  | .ctz => ctzResult x
  | .cpop => cpopResult x
  | .bit => bitResult x
  | .bitSet => bitSetResult x
  | .bitClr => bitClrResult x
  | .shl => shlResult x
  | .shr => shrResult x
  | .sra => sraResult x
  | .sext => sextResult x
  | .zext => zextResult x
  | .add => addResult x
  | .sub => subResult x
  | .addOvfU => addOvfUResult x
  | .subOvfU => subOvfUResult x
  | .addOvfS => addOvfSResult x
  | .subOvfS => subOvfSResult x
  | .addSatU => addSatUResult x
  | .subSatU => subSatUResult x
  | .addSatS => addSatSResult x
  | .subSatS => subSatSResult x
  | .addWideU => addWideUResult x
  | .subWideU => subWideUResult x
  | .addWideS => addWideSResult x
  | .subWideS => subWideSResult x
  | .avgAddU => avgAddUResult x
  | .avgSubU => avgSubUResult x
  | .avgAddS => avgAddSResult x
  | .avgSubS => avgSubSResult x
  | .mul => mulResult x
  | .mulWideU => mulWideUResult x
  | .mulWideS => mulWideSResult x
  | .mulWideSU => mulWideSUResult x
  | .mulOvfU => mulOvfUResult x
  | .mulOvfS => mulOvfSResult x
  | .divU => divUResult x
  | .divS => divSResult x
  | .remU => remUResult x
  | .remS => remSResult x
  | .putLo => putLoResult x
  | .loSext => loSextResult x

/-- `F_W(op, a, b, n, s)` (10_state.md R34): the operation of the opcode map, or the `IllegalOp` outcome for a
reserved opcode (60_exceptions.md R222). -/
def commandResult {w : Nat} (x : Command w) : Results w :=
  match decode x.op with
  | .ok i => opResult i x
  | .error _ => raiseIllegalOp w

end Sys2Proof.Machine
end

