-- ==== Sys2Proof/Machine/Composite.lean ====
section
/-! DEFINITION. The structure rules: how the result at width `2H` is built from operations of width `H`
(00_scope.md R3; 41_compare_bitwise.md R133, R134, R142, R143; 42_shift_extend.md R149; 43_add_sub.md R156;
44_multiply.md R196, R197; 45_divide.md R205). No meaning calls these: an instance computes from the
whole-value rules (93_implementation_defined.md I4), and statements say that the two agree. -/

namespace Sys2Proof.Machine

/-- The order of two integers. -/
def orderInt (x y : Int) : Ordering := if x < y then .lt else if x = y then .eq else .gt

/-- An ordering as a pattern (41_compare_bitwise.md R129). -/
def orderPattern (w : Nat) : Ordering → BitVec w
  | .lt => cMaxU w
  | .eq => cZero w
  | .gt => cOne w

/-- `cmp_u` on halves (41_compare_bitwise.md R133). -/
def cmpUHalves {h : Nat} (a b : BitVec (h + h)) : Ordering :=
  if hiHalf a ≠ hiHalf b then orderInt (u (hiHalf a)) (u (hiHalf b))
  else orderInt (u (loHalf a)) (u (loHalf b))

/-- `cmp_s` on halves (41_compare_bitwise.md R133). -/
def cmpSHalves {h : Nat} (a b : BitVec (h + h)) : Ordering :=
  if a.msb && !b.msb then .lt else if !a.msb && b.msb then .gt else cmpUHalves a b

/-- `eq` on halves (41_compare_bitwise.md R133). -/
def eqHalves {h : Nat} (a b : BitVec (h + h)) : Bool :=
  equalFlag (hiHalf a) (hiHalf b) && equalFlag (loHalf a) (loHalf b)

/-- A bitwise operation on two operands, half by half (41_compare_bitwise.md R134). -/
def bitwiseHalves {h : Nat} (f : BitVec h → BitVec h → BitVec h) (a b : BitVec (h + h)) : BitVec (h + h) :=
  joinHalves (f (hiHalf a) (hiHalf b)) (f (loHalf a) (loHalf b))

/-- Bit `i` of a value, in the half that holds it (41_compare_bitwise.md R143). -/
def bitHalves {h : Nat} (a : BitVec (h + h)) (i : Nat) : Bool :=
  if i < h then bitFlag (loHalf a) i else bitFlag (hiHalf a) (i - h)

/-- A change `f` of bit `i` made in the half that holds it (41_compare_bitwise.md R143). -/
def changeBitHalves {h : Nat} (f : BitVec h → Nat → BitVec h) (a : BitVec (h + h)) (i : Nat) : BitVec (h + h) :=
  if i < h then joinHalves (hiHalf a) (f (loHalf a) i) else joinHalves (f (hiHalf a) (i - h)) (loHalf a)

/-- Sets bit `i` (41_compare_bitwise.md R146). -/
def setBit {w : Nat} (v : BitVec w) (i : Nat) : BitVec w := v ||| (cOne w <<< i)

/-- Clears bit `i` (41_compare_bitwise.md R147). -/
def clearBit {w : Nat} (v : BitVec w) (i : Nat) : BitVec w := v &&& ~~~(cOne w <<< i)

/-- `clz` on halves (41_compare_bitwise.md R142). -/
def clzHalves {h : Nat} (a : BitVec (h + h)) : Nat :=
  if hiHalf a = cZero h then h + zerosBelow (loHalf a) h else zerosBelow (hiHalf a) h

/-- `ctz` on halves (41_compare_bitwise.md R142). -/
def ctzHalves {h : Nat} (a : BitVec (h + h)) : Nat :=
  if loHalf a = cZero h then h + zerosFrom (hiHalf a) 0 h else zerosFrom (loHalf a) 0 h

/-- `cpop` on halves (41_compare_bitwise.md R142). -/
def cpopHalves {h : Nat} (a : BitVec (h + h)) : Nat := popcount (hiHalf a) + popcount (loHalf a)

/-- The sign fill of a half (42_shift_extend.md R149). -/
def signFill {h : Nat} (a : BitVec (h + h)) : BitVec h := if a.msb then cMaxU h else cZero h

/-- `SHL` by `k < W` on halves (42_shift_extend.md R149). -/
def shlHalves {h : Nat} (a : BitVec (h + h)) (k : Nat) : BitVec (h + h) :=
  if k = 0 then a
  else if k < h then
    joinHalves ((hiHalf a <<< k) ||| (loHalf a >>> (h - k))) (loHalf a <<< k)
  else joinHalves (loHalf a <<< (k - h)) (cZero h)

/-- `SHR` by `k < W` on halves (42_shift_extend.md R149). -/
def shrHalves {h : Nat} (a : BitVec (h + h)) (k : Nat) : BitVec (h + h) :=
  if k = 0 then a
  else if k < h then
    joinHalves (hiHalf a >>> k) ((loHalf a >>> k) ||| (hiHalf a <<< (h - k)))
  else joinHalves (cZero h) (hiHalf a >>> (k - h))

/-- `SRA` by `k < W` on halves (42_shift_extend.md R149; the vacated half is the sign fill, 90_conflicts.md
C6). -/
def sraHalves {h : Nat} (a : BitVec (h + h)) (k : Nat) : BitVec (h + h) :=
  if k = 0 then a
  else if k < h then
    joinHalves ((hiHalf a).sshiftRight k) ((loHalf a >>> k) ||| (hiHalf a <<< (h - k)))
  else joinHalves (signFill a) ((hiHalf a).sshiftRight (k - h))

/-- The adder of width `2H` as two adders of width `H` and a carry: the sum and the carry
(43_add_sub.md R156). -/
def addHalves {h : Nat} (a b : BitVec (h + h)) : BitVec (h + h) × Bool :=
  let sl := bv h (u (loHalf a) + u (loHalf b))
  let c0 := carryOut (loHalf a) (loHalf b)
  let t := bv h (u (hiHalf a) + u (hiHalf b))
  let c1 := carryOut (hiHalf a) (hiHalf b)
  let sh := bv h (u t + u (ofBool h c0))
  let c2 := decide (u t + (if c0 then 1 else 0) ≥ (2 ^ h : Nat))
  (joinHalves sh sl, c1 || c2)

/-- The subtracter of width `2H` on halves: the difference and the borrow (43_add_sub.md R156). -/
def subHalves {h : Nat} (a b : BitVec (h + h)) : BitVec (h + h) × Bool :=
  let dl := bv h (u (loHalf a) - u (loHalf b))
  let b0 := borrowOut (loHalf a) (loHalf b)
  let t := bv h (u (hiHalf a) - u (hiHalf b))
  let b1 := borrowOut (hiHalf a) (hiHalf b)
  let dh := bv h (u t - u (ofBool h b0))
  let b2 := decide (u t < (if b0 then 1 else 0))
  (joinHalves dh dl, b1 || b2)

/-- The exact product by the half-split identity: four cross products of halves (44_multiply.md R196). -/
def productHalves {h : Nat} (x y : BitVec (h + h)) : Nat :=
  let p00 := (loHalf x).toNat * (loHalf y).toNat
  let p10 := (hiHalf x).toNat * (loHalf y).toNat
  let p01 := (loHalf x).toNat * (hiHalf y).toNat
  let p11 := (hiHalf x).toNat * (hiHalf y).toNat
  p11 * 2 ^ (2 * h) + (p10 + p01) * 2 ^ h + p00

/-- The low and high words of the half-split product (44_multiply.md R196). -/
def mulHalves {h : Nat} (x y : BitVec (h + h)) : BitVec (h + h) × BitVec (h + h) :=
  (BitVec.ofNat (h + h) (productHalves x y), BitVec.ofNat (h + h) (productHalves x y / 2 ^ (h + h)))

/-- The signed high word from the unsigned one (44_multiply.md R197, `MUL_WIDE_S`). -/
def correctSS {w : Nat} (a b hi : BitVec w) : BitVec w :=
  hi - (if a.msb then b else cZero w) - (if b.msb then a else cZero w)

/-- The mixed high word from the unsigned one (44_multiply.md R197, `MUL_WIDE_SU`). -/
def correctSU {w : Nat} (a b hi : BitVec w) : BitVec w := hi - (if a.msb then b else cZero w)

/-- `|v|`: the pattern of the absolute value of `s(v)` (45_divide.md R205). -/
def magnitude {w : Nat} (v : BitVec w) : BitVec w := bv w (if sgn v < 0 then -(sgn v) else sgn v)

/-- Signed division and remainder by magnitudes (45_divide.md R205). -/
def divByMagnitudes {w : Nat} (a b : BitVec w) : BitVec w × BitVec w :=
  let q := fdiv (u (magnitude a)) (u (magnitude b))
  let r := u (magnitude a) - u (magnitude b) * q
  (if a.msb != b.msb then bv w (-q) else bv w q, if a.msb then bv w (-r) else bv w r)

end Sys2Proof.Machine
end

