-- ==== Sys2Proof/Machine/LongDivision.lean ====
section
/-! DEFINITION. The reference division of 45_divide.md R207: the short-circuit, the one-word sweep, and
Knuth's Algorithm D over limbs of `LIMB` bits. Only its results are observable; no meaning calls it, and
statements say that its results are those of the whole-value rules. Log entry 16. -/

namespace Sys2Proof.Machine

/-- The base of a limb, `2^LIMB`. -/
def limbBase : Nat := 2 ^ Config.limbBits

/-- The `n` least significant limbs of `x`, the most significant of them first. -/
def limbsOf : Nat → Nat → List Nat
  | 0, _ => []
  | n + 1, x => (x / limbBase ^ n) % limbBase :: limbsOf n x

/-- The value of a limb list, most significant limb first. -/
def ofLimbs (ls : List Nat) : Nat := ls.foldl (fun acc l => acc * limbBase + l) 0

/-- R207 step 2: the sweep by a one-word divisor `d`, from the most significant limb down, carrying the
remainder `r` between limbs. -/
def sweepOneWord (d : Nat) : Nat → List Nat → List Nat × Nat
  | r, [] => ([], r)
  | r, l :: ls =>
    let cur := r * limbBase + l
    let rest := sweepOneWord d (cur % d) ls
    (cur / d :: rest.1, rest.2)

/-- The number of limbs in the used bits of `d`. -/
def usedLimbs (d : Nat) : Nat := d.log2 / Config.limbBits + 1

/-- The normalizing shift: it sets the high bit of the top limb of `d`. -/
def normShift (d : Nat) : Nat := usedLimbs d * Config.limbBits - 1 - d.log2

/-- R207 step 3, the estimate of a quotient limb: the top three limbs of the dividend window over the top two
limbs of the divisor of `n` limbs. -/
def estimateLimb (n d window : Nat) : Nat :=
  min (limbBase - 1) ((window / limbBase ^ (n - 2)) / (d / limbBase ^ (n - 2)))

/-- R207 step 3, the correction: at most `fuel` decrements, each after a trial subtraction. -/
def correctLimb (d window : Nat) : Nat → Nat → Nat
  | 0, q => q
  | fuel + 1, q => if q * d > window then correctLimb d window fuel (q - 1) else q

/-- R207 step 3, the loop over the limbs of the normalized dividend: `r` is the top of the window that is
left, `d` the normalized divisor of `n` limbs. -/
def knuthSweep (n d : Nat) : Nat → List Nat → List Nat × Nat
  | r, [] => ([], r)
  | r, l :: ls =>
    let window := r * limbBase + l
    let q := correctLimb d window 2 (estimateLimb n d window)
    let rest := knuthSweep n d (window - q * d) ls
    (q :: rest.1, rest.2)

/-- R207 step 3: Algorithm D on a dividend of at most `m` limbs; normalize, sweep, de-normalize. -/
def knuthD (m a d : Nat) : Nat × Nat :=
  let sh := normShift d
  let res := knuthSweep (usedLimbs d) (d * 2 ^ sh) 0 (limbsOf (m + 1) (a * 2 ^ sh))
  (ofLimbs res.1, res.2 / 2 ^ sh)

/-- The quotient and remainder of `a` by `d ≠ 0` for a dividend of at most `m` limbs (45_divide.md R207). -/
def longDivide (m a d : Nat) : Nat × Nat :=
  if a < d then (0, a)
  else if d < limbBase then
    let res := sweepOneWord d 0 (limbsOf m a)
    (ofLimbs res.1, res.2)
  else knuthD m a d

/-- The number of limbs a value of `W` bits needs. -/
def limbCount (w : Nat) : Nat := (w + Config.limbBits - 1) / Config.limbBits

/-- Unsigned division by the reference algorithm, on patterns. -/
def longDivideU {w : Nat} (a b : BitVec w) : BitVec w × BitVec w :=
  let qr := longDivide (limbCount w) a.toNat b.toNat
  (BitVec.ofNat w qr.1, BitVec.ofNat w qr.2)

end Sys2Proof.Machine
end

