-- ==== Sys2Proof/Machine/HostSide.lean ====
section
/-! DEFINITION. The host's side of the ports: byte buffers (20_memory.md R55, R56), reading results
(70_reset_and_hazards.md R246), issuing a command and waiting for it (R245; 30_encoding.md R79). The two
host faults of the spec are raised here, and nowhere in a step of the block. -/

namespace Sys2Proof.Machine

/-- `val` on a buffer: exactly `W/8` bytes, or the host fault `ShortBuffer`, for a shorter and for a longer
buffer alike (20_memory.md R55, 60_exceptions.md R224). -/
def hostVal (w : Nat) (bs : List Byte) : Except Fault (BitVec w) :=
  if bs.length = w / 8 then .ok (valOf w bs) else .error .shortBuffer

/-- The low-half image of a `PUT_LO` result: the first `W/16` bytes (20_memory.md R56). -/
def lowHalfImage {w : Nat} (v : BitVec w) : List Byte := (bytesOf v).take (w / 16)

/-- The host reads the result ports: a host fault while `DONE = 0` (70_reset_and_hazards.md R246). -/
def hostRead (s : State) : Except Fault (Results s.inst.width.bits) :=
  if s.regs.done then .ok s.regs.results else .error .readBeforeDone

/-- The port levels that present the command `x` (10_state.md R23, R28). -/
def presenting {w : Nat} (x : Command w) (lat : Nat) : Inputs w :=
  { start := true, op := x.op, a := x.a, b := x.b, n := x.n, s := x.s, lat := lat }

/-- The host lets edges go by until `BUSY = 0`, at most `fuel` of them. -/
def waitIdle : Nat → State → Host.Outcome State Fault Refusal
  | 0, s => .next s
  | fuel + 1, s =>
    if s.regs.busy then
      match step s with
      | .next t => waitIdle fuel t
      | .fault f => .fault f
      | .refused r => .refused r
    else .next s

/-- The host waits out a command in flight, with idle ports (70_reset_and_hazards.md R245): `CNT + 1` edges
are enough (10_state.md R36). -/
def settle (s : State) : Host.Outcome State Fault Refusal :=
  waitIdle (s.regs.cnt + 1) { s with inputs := [] }

/-- The host presents a command to an idle instance at one edge and waits for its completion
(30_encoding.md R79, 70_reset_and_hazards.md R246). `lat` is the latency the implementation takes. -/
def issue (s : State) (x : Command s.inst.width.bits) (lat : Nat) : Host.Outcome State Fault Refusal :=
  match step { s with inputs := [presenting x lat] } with
  | .next t => settle t
  | .fault f => .fault f
  | .refused r => .refused r

end Sys2Proof.Machine
end

