-- ==== Sys2Proof/Machine/Script.lean ====
section
/-! DEFINITION. The host script machine (30_encoding.md R79): control flow, variables and host arithmetic are
the host's, and only an `issue` line presents a command to an instance. Several instances run side by side
and share nothing (20_memory.md R60). Conventions: log entry 13. -/

namespace Sys2Proof.Machine

/-- A host with its instances. -/
structure HostState where
  /-- The instances, each independent of the others (20_memory.md R60). -/
  blocks : List State
  /-- The host variables. -/
  env : HostEnv
  /-- The line the script is at. -/
  line : Nat
  /-- `halt` has run, or the script has no further line. -/
  halted : Bool
  /-- The latencies of the commands to come, one a command: free values (log entries 3 and 13). -/
  lats : List Nat
  deriving DecidableEq, Repr

/-- The value of a host term. A host line has no width, so a half of an integer has none here (log entry 21). -/
def evalTerm (env : HostEnv) : HostTerm → Int
  | .num k => k
  | .limbs ls => limbsToNat ls
  | .const wd c => (constValue wd.bits c).toNat
  | .host v sel => readHost none env v sel
  | .add x y => evalTerm env x + evalTerm env y
  | .sub x y => evalTerm env x - evalTerm env y
  | .mul x y => evalTerm env x * evalTerm env y
  | .slice x hi lo => evalTerm env x % (2 ^ (hi + 1) : Nat) / (2 ^ lo : Nat)
  | .cat x y loBits => evalTerm env x * (2 ^ loBits : Nat) + evalTerm env y % (2 ^ loBits : Nat)
  | .item v k => readItem env v (evalTerm env k)

/-- The truth of a condition. -/
def evalCond (env : HostEnv) : HostCond → Bool
  | .eq x y => decide (evalTerm env x = evalTerm env y)
  | .ne x y => decide (evalTerm env x ≠ evalTerm env y)
  | .lt x y => decide (evalTerm env x < evalTerm env y)

/-- The byte image a host stores of a value of `W` bits (20_memory.md R51, R56). -/
def imageOf {w : Nat} (im : Image) (v : BitVec w) : List Byte :=
  match im with
  | .whole => bytesOf v
  | .lowHalf => lowHalfImage v

/-- A command's results as the host binds them. -/
def Results.toHost {w : Nat} (r : Results w) : HostResult :=
  { lo := r.lo.toNat, hi := r.hi.toNat, flag := r.flag, rs := r.rs.toNat, err := r.err.toNat }

/-- Binds `v` and goes to the next line. -/
def HostState.bindNext (h : HostState) (v : String) (x : HostVal) : HostState :=
  { h with env := (v, x) :: h.env, line := h.line + 1 }

/-- Goes to the line of a label. -/
def HostState.jump (h : HostState) (ls : List Line) (l : String) : Host.Outcome HostState Fault Refusal :=
  match ls.findIdx? fun x => decide (x = Line.label l) with
  | some k => .next { h with line := k }
  | none => .refused (.missingLabel l)

/-- `v := MNEMONIC ...` on an idle instance: the command is encoded, issued and waited for, and its results
are read while `DONE = 1` and bound to `v` (30_encoding.md R79). -/
def issueOn (h : HostState) (s : State) (v : String) (blk : Nat) (c : Written) :
    Host.Outcome HostState Fault Refusal :=
  match issue s (assemble s.inst.width h.env c) (h.lats.headD 1) with
  | .fault f => .fault f
  | .refused r => .refused r
  | .next t =>
    match hostRead t with
    | .error f => .fault f
    | .ok r =>
      .next { h.bindNext v (.res r.toHost) with blocks := h.blocks.set blk t, lats := h.lats.tail }

/-- One line of a script. DESIGN CHOICE: an `issue` line steps the instance it names, and no other instance
takes an edge meanwhile (log entry 19); it does not look at `Written.wf` (log entry 24); a `toBytes` line gives
the image of the pattern modulo `2^W` (log entry 18). -/
def runLine (ls : List Line) (h : HostState) : Line → Host.Outcome HostState Fault Refusal
  | .issue v blk c =>
    match h.blocks[blk]? with
    | none => .refused (.missingInstance blk)
    | some s =>
      match settle s with
      | .fault f => .fault f
      | .refused r => .refused r
      | .next t => issueOn h t v blk c
  | .letInt v t => .next (h.bindNext v (.int (evalTerm h.env t)))
  | .letList v ts => .next (h.bindNext v (.list (ts.map (evalTerm h.env))))
  | .fromBytes v blk buffer =>
    match h.blocks[blk]? with
    | none => .refused (.missingInstance blk)
    | some s =>
      match hostVal s.inst.width.bits buffer with
      | .ok k => .next (h.bindNext v (.int k.toNat))
      | .error f => .fault f
  | .toBytes v blk t im =>
    match h.blocks[blk]? with
    | none => .refused (.missingInstance blk)
    | some s =>
      .next (h.bindNext v
        (.list ((imageOf im (bv s.inst.width.bits (evalTerm h.env t))).map fun b => b.toNat)))
  | .label _ => .next { h with line := h.line + 1 }
  | .goto l => h.jump ls l
  | .ifGoto c l => if evalCond h.env c then h.jump ls l else .next { h with line := h.line + 1 }
  | .halt => .next { h with halted := true }

/-- One step of a script: the line it is at; a script that has no further line has halted. -/
def scriptStep (ls : List Line) (h : HostState) : Host.Outcome HostState Fault Refusal :=
  if h.halted then .next h
  else
    match ls[h.line]? with
    | none => .next { h with halted := true }
    | some l => runLine ls h l

/-- `k` steps of a script, stopping at a fault or a refusal. -/
def scriptRun (ls : List Line) : Nat → HostState → Host.Outcome HostState Fault Refusal
  | 0, h => .next h
  | k + 1, h =>
    match scriptStep ls h with
    | .next t => scriptRun ls k t
    | .fault f => .fault f
    | .refused r => .refused r

end Sys2Proof.Machine
end

