-- ==== Sys2Proof/Safety.lean ====
section
/-! DEFINITION. What a state of an instance that has been reset satisfies, and stays satisfying, whatever the
host drives: the terms the claims use. -/

namespace Sys2Proof.Machine

/-- What holds of the registers after a reset edge and after every edge from then on. -/
structure Regs.Coherent {w : Nat} (r : Regs w) (latMax : Nat) : Prop where
  /-- `BUSY` and `DONE` are never both 1 (10_state.md R28, R30). -/
  notBoth : ¬(r.busy = true ∧ r.done = true)
  /-- A command in flight completes within `LAT_MAX(W)` edges of its acceptance (70_reset_and_hazards.md R248). -/
  bounded : r.busy = true → r.cnt < latMax
  /-- While `DONE = 1` the results are `F_W` of the latched command (10_state.md R33, R34). -/
  shown : r.done = true → r.results = commandResult r.latched
  /-- Idle with `DONE = 0`: reset, and no command since; the ports show zeros (70_reset_and_hazards.md R246). -/
  fresh : r.busy = false → r.done = false → r.results = {}
  /-- `ERR = 3` is never produced (60_exceptions.md R221). -/
  errLegal : r.err ≠ 3
  /-- With an error every other result is zero (60_exceptions.md R222). -/
  errAlone : r.err ≠ 0 → r.rLo = 0 ∧ r.rHi = 0 ∧ r.flag = false ∧ r.rs = 0

/-- The invariant of an instance: a legal latency bound (00_scope.md R5) and coherent registers. -/
def State.Inv (s : State) : Prop := s.inst.wf = true ∧ s.regs.Coherent s.inst.latMax

end Sys2Proof.Machine
end

