-- ==== Sys2Proof/Certificates/Slice0/Obligations.lean ====
section
/-! DEFINITION. The statements for the provers. `exec i s = .next (s.withResults r)` says that the operation
completes, that the five result registers take the fields of `r` (a field that is not written is zero,
10_state.md R31), and that nothing else changes but `BUSY` and `DONE`
(`EveryInstructionCompletesInItsFrame` spells `withResults` out). A statement over every state also speaks of
states before the first reset edge; there the results of a command are the model's choice (log entry 8). -/

open Sys2Proof Sys2Proof.Machine

/-! ### Reset, the handshake, the step -/

/-- 70_reset_and_hazards.md R240: whatever the instance was doing and whatever else is driven, an edge with
`rst = 1` gives every register its reset value. `CNT`, which has none in the spec (log entry 5), is left
open. -/
def Obligations.ResetEdgeGivesTheResetValues : Prop :=
  ∀ s : State, s.now.rst = true →
    ∃ c : Nat, step s = .next
      { s with
        regs :=
          { busy := false, done := false, opl := 0, al := 0, bl := 0, nl := 0, sl := 0
            rLo := 0, rHi := 0, flag := false, rs := 0, err := 0, cnt := c }
        inputs := s.inputs.tail }

/-- 10_state.md R28: an idle instance accepts the command its ports show: the latches are written, `BUSY` is
set, `DONE` is cleared, `CNT` is loaded for the latency of that edge, and every other register keeps its
value. -/
def Obligations.AcceptanceLatchesThePorts : Prop :=
  ∀ s : State, s.now.rst = false → s.now.start = true → s.regs.busy = false →
    1 ≤ s.now.lat → s.now.lat ≤ s.inst.latMax →
    step s = .next
      { s with
        regs :=
          { s.regs with
            opl := s.now.op, al := s.now.a, bl := s.now.b, nl := s.now.n, sl := s.now.s
            busy := true, done := false, cnt := s.now.lat - 1 }
        inputs := s.inputs.tail }

/-- 60_exceptions.md R232: while `BUSY = 0` and no command is presented, every register holds its value. -/
def Obligations.IdleEdgeHoldsEveryRegister : Prop :=
  ∀ s : State, s.now.rst = false → s.now.start = false → s.regs.busy = false →
    step s = .next { s with inputs := s.inputs.tail }

/-- 10_state.md R29: at an edge with `BUSY = 1` and no reset, whatever the other ports show leaves no trace:
two instances that differ in it alone take the same next state. -/
def Obligations.PortsWhileBusyLeaveNoTrace : Prop :=
  ∀ (p : InstanceParams) (r : Regs p.width.bits) (i j : Inputs p.width.bits)
    (rest : List (Inputs p.width.bits)),
    r.busy = true → i.rst = false → j.rst = false →
    step { inst := p, regs := r, inputs := i :: rest } = step { inst := p, regs := r, inputs := j :: rest }

/-- 10_state.md R36, R30: at the completion edge of a command whose opcode selects an operation, the step is
that operation's meaning, after which the port levels of the edge are used up. -/
def Obligations.StepRunsTheLatchedOperation : Prop :=
  ∀ (s : State) (i : Instr), s.now.rst = false → s.regs.busy = true → s.regs.cnt = 0 →
    decode s.regs.opl = .ok i →
    step s = match exec i s with
      | .next t => .next { t with inputs := t.inputs.tail }
      | .fault f => .fault f
      | .refused r => .refused r

/-- 30_encoding.md R75: the opcodes that no operation has are exactly the listed ranges, 180 values; a command
with one is accepted like any other, and completes with `IllegalOp` and every other result zero. -/
def Obligations.ReservedOpcodesCompleteWithIllegalOp : Prop :=
  (∀ op : Opcode, isReserved op = true ↔ ∀ i : Instr, encode i ≠ op) ∧
  ((List.range 256).filter fun k => isReserved (BitVec.ofNat 8 k)).length = 180 ∧
  (∀ s : State, s.now.rst = false → s.now.start = true → s.regs.busy = false → isReserved s.now.op = true →
    ∃ c : Nat, step s = .next
      { s with
        regs :=
          { s.regs with
            opl := s.now.op, al := s.now.a, bl := s.now.b, nl := s.now.n, sl := s.now.s
            busy := true, done := false, cnt := c }
        inputs := s.inputs.tail }) ∧
  ∀ s : State, s.now.rst = false → s.regs.busy = true → s.regs.cnt = 0 → isReserved s.regs.opl = true →
    step s = .next
      { s with
        regs :=
          { s.regs with
            rLo := 0, rHi := 0, flag := false, rs := 0, err := 1, busy := false, done := true }
        inputs := s.inputs.tail }

/-- 70_reset_and_hazards.md R248, 10_state.md R30, R33, R34: a command presented to an idle instance is busy
for exactly the latency chosen at its acceptance, the result registers hold their values meanwhile, and at
the completion edge they all take `F_W` of the command, whatever the other ports showed in between. The
latency is the field `lat` of the acceptance edge's port levels, a free value (log entry 3). -/
def Obligations.CommandCompletesAfterItsLatency : Prop :=
  ∀ (p : InstanceParams) (r : Regs p.width.bits) (i : Inputs p.width.bits)
    (rest : List (Inputs p.width.bits)),
    r.busy = false → i.rst = false → i.start = true → 1 ≤ i.lat → i.lat ≤ p.latMax →
    (∀ j, j < i.lat → (rest.getD j {}).rst = false) →
    (∀ k, k < i.lat → ∃ t : Regs p.width.bits,
      core.run (1 + k) { inst := p, regs := r, inputs := i :: rest : State } =
        .next { inst := p, regs := t, inputs := rest.drop k : State } ∧
      t.busy = true ∧ t.done = false ∧ t.results = r.results) ∧
    ∃ t : Regs p.width.bits,
      core.run (1 + i.lat) { inst := p, regs := r, inputs := i :: rest : State } =
        .next { inst := p, regs := t, inputs := rest.drop i.lat : State } ∧
      t.busy = false ∧ t.done = true ∧
      t.latched = { op := i.op, a := i.a, b := i.b, n := i.n, s := i.s } ∧
      t.results = commandResult { op := i.op, a := i.a, b := i.b, n := i.n, s := i.s }

/-- 10_state.md R33: the result registers change at a reset edge and at a completion edge, and at no other. -/
def Obligations.ResultsHoldBetweenCompletions : Prop :=
  ∀ s : State, s.now.rst = false → ¬(s.regs.busy = true ∧ s.regs.cnt = 0) →
    ∃ r : Regs s.bits, step s = .next { s with regs := r, inputs := s.inputs.tail } ∧
      r.rLo = s.regs.rLo ∧ r.rHi = s.regs.rHi ∧ r.flag = s.regs.flag ∧ r.rs = s.regs.rs ∧
      r.err = s.regs.err

/-- 60_exceptions.md R220: from every state and at every port level a step answers a next state of the same
instance; nothing traps, and nothing is refused. -/
def Obligations.EveryStepAnswersANextState : Prop :=
  ∀ s : State, ∃ r : Regs s.bits, step s = .next { s with regs := r, inputs := s.inputs.tail }

/-- The invariant of Safety.lean is kept by every step, from every state that has it. -/
def Obligations.StepKeepsTheInvariant : Prop :=
  ∀ s t : State, s.Inv → step s = .next t → t.Inv

/-- The invariant of Safety.lean holds in the reset state of every instance with a legal latency bound, and
in `State.reset`, whose instance is the model's choice (log entries 1 and 2). -/
def Obligations.ResetHasTheInvariant : Prop :=
  (∀ p : InstanceParams, p.wf = true → (State.resetOf p).Inv) ∧ State.reset.Inv

/-- 10_state.md R27: the places of the fields of the status word. -/
def Obligations.StatusWordFields : Prop :=
  ∀ s : State,
    s.regs.ports.status.getLsbD 0 = s.regs.busy ∧
    s.regs.ports.status.getLsbD 1 = s.regs.done ∧
    s.regs.ports.status.getLsbD 2 = s.regs.flag ∧
    s.regs.ports.status.extractLsb' 3 2 = s.regs.err

/-! ### Every operation -/

/-- 10_state.md R30, R31: every operation completes from every state; its results are written, `BUSY` is
cleared, `DONE` is set, and the latches, `CNT`, the parameters and the ports are as they were. -/
def Obligations.EveryInstructionCompletesInItsFrame : Prop :=
  ∀ (i : Instr) (s : State), ∃ x : Results s.bits,
    exec i s = .next
      { inst := s.inst
        regs :=
          { busy := false, done := true
            opl := s.regs.opl, al := s.regs.al, bl := s.regs.bl, nl := s.regs.nl, sl := s.regs.sl
            rLo := x.lo, rHi := x.hi, flag := x.flag, rs := x.rs, err := x.err
            cnt := s.regs.cnt }
        inputs := s.inputs }

/-- 10_state.md R34: what an operation writes is fixed by the width and the latched operands: not by the
earlier results, the status, the counter, the latency bound or the ports. -/
def Obligations.ResultsDependOnTheLatchesOnly : Prop :=
  ∀ (i : Instr) (wd : Width) (m m' : Nat) (r r' : Regs wd.bits) (ins ins' : List (Inputs wd.bits)),
    r.latched = r'.latched →
    ∃ x : Results wd.bits,
      exec i { inst := ⟨wd, m⟩, regs := r, inputs := ins } =
        .next { inst := ⟨wd, m⟩, regs := r.complete x, inputs := ins } ∧
      exec i { inst := ⟨wd, m'⟩, regs := r', inputs := ins' } =
        .next { inst := ⟨wd, m'⟩, regs := r'.complete x, inputs := ins' }

/-- 30_encoding.md R71: an operand field an operation does not read has no effect on any result. -/
def Obligations.UnreadFieldsAreIgnored : Prop :=
  ∀ (i : Instr) (w : Nat) (x y : Command w),
    (Field.a ∈ i.reads → x.a = y.a) → (Field.b ∈ i.reads → x.b = y.b) →
    (Field.n ∈ i.reads → x.n = y.n) → (Field.s ∈ i.reads → x.s = y.s) →
    opResult i x = opResult i y

/-- 10_state.md R31, 30_encoding.md R74: a result register that the opcode map does not list under "writes"
is written zero. -/
def Obligations.UnnamedResultsAreWrittenZero : Prop :=
  ∀ (i : Instr) (s : State), ∃ x : Results s.bits, exec i s = .next (s.withResults x) ∧
    (ResField.lo ∉ i.writes → x.lo = 0) ∧ (ResField.hi ∉ i.writes → x.hi = 0) ∧
    (ResField.flag ∉ i.writes → x.flag = false) ∧ (ResField.rs ∉ i.writes → x.rs = 0) ∧
    (ResField.err ∉ i.writes → x.err = 0)

/-- 10_state.md R32: the operations that write a non-constant `FLAG` are exactly the twelve listed; every
other writes 0. -/
def Obligations.FlagIsWrittenByExactlyTwelve : Prop :=
  ∀ i : Instr,
    (i ∈ [Instr.eq, .bit, .addOvfU, .subOvfU, .addOvfS, .subOvfS, .addSatU, .subSatU, .addSatS, .subSatS,
        .mulOvfU, .mulOvfS] →
      ∀ wd : Width, ∃ x y : Command wd.bits, (opResult i x).flag = true ∧ (opResult i y).flag = false) ∧
    (i ∉ [Instr.eq, .bit, .addOvfU, .subOvfU, .addOvfS, .subOvfS, .addSatU, .subSatU, .addSatS, .subSatS,
        .mulOvfU, .mulOvfS] →
      ∀ s : State, ∃ x : Results s.bits, exec i s = .next (s.withResults x) ∧ x.flag = false)

/-- 60_exceptions.md R221, R222, R223: the code `ERR` of every command, at every width: `IllegalOp` exactly
for a reserved opcode and for `PUT_LO` at W = 8, `IllegalOperand` exactly for `FROM_NARROW` whose `u(N)` is no
family width below `W`, `OK` for every other; and with an error every other result is zero. -/
def Obligations.ErrorCodesAreExact : Prop :=
  ∀ (wd : Width) (x : Command wd.bits),
    ((commandResult x).err = 1 ↔ isReserved x.op = true ∨ (x.op = 0xA0 ∧ wd = .w8)) ∧
    ((commandResult x).err = 2 ↔
      x.op = 0x1F ∧ ¬∃ v : Width, v.bits = x.n.toNat ∧ v.bits < wd.bits) ∧
    (commandResult x).err ≠ 3 ∧
    ((commandResult x).err ≠ 0 → commandResult x = { err := (commandResult x).err })

/-! ### Encoding -/

/-- 30_encoding.md R77: each opcode value selects one row of the map or is rejected by name, and the map read
in either direction is the same map. -/
def Obligations.OpcodeMapReadBothWays : Prop :=
  (∀ i : Instr, decode (encode i) = .ok i) ∧
  (∀ (op : Opcode) (i : Instr), decode op = .ok i → encode i = op) ∧
  ∀ op : Opcode, (∃ i : Instr, decode op = .ok i) ∨ decode op = .error (.reservedOpcode op)

/-- 30_encoding.md R74: words of the map, one or two of each family, and what they stand for. -/
def Obligations.WordsOfTheOpcodeMap : Prop :=
  decode 0b00000110 = .ok .maxS ∧ decode 0b00011111 = .ok .fromNarrow ∧ decode 0b00101101 = .ok .toI128 ∧
  decode 0b00110001 = .ok .cmpS ∧ decode 0b01000111 = .ok .bit ∧ decode 0b01010010 = .ok .sra ∧
  decode 0b01101011 = .ok .subWideU ∧ decode 0b01110010 = .ok .avgAddS ∧ decode 0b10000011 = .ok .mulWideSU ∧
  decode 0b10010001 = .ok .divS ∧ decode 0b10100001 = .ok .loSext ∧
  decode 0b00000000 = .error (.reservedOpcode 0)

/-- 30_encoding.md R78: a well-formed written command encodes to ports from which the decoder reads its
operation, on which every written field holds the pattern of its value, which is the value itself where it
names no host variable, and every other field is zero. -/
def Obligations.WrittenCommandRoundTrip : Prop :=
  ∀ (wd : Width) (env : HostEnv) (c : Written) (i : Instr), c.head = .mnemonic i → c.wf wd = true →
    decode (assemble wd env c).op = .ok i ∧
    (∀ f v, (f, v) ∈ c.fields → ((assemble wd env c).get f : Int) = v.eval wd env % (2 ^ f.bits wd : Nat)) ∧
    (∀ f v k, (f, v) ∈ c.fields → v.closed wd = some k → (assemble wd env c).get f = k) ∧
    ∀ f, f ∉ c.fields.map Prod.fst → (assemble wd env c).get f = 0

/-- 30_encoding.md R80: what each pseudo-command computes, through its expansion, for operands given as
literals that fit their ports. -/
def Obligations.PseudoCommandsCompute : Prop :=
  ∀ (wd : Width) (x y : BitVec wd.bits) (i : Word32) (k : Nat), 1 ≤ k → k ≤ wd.bits →
    let run := fun p : Pseudo => commandResult (assemble wd [] p.expand)
    run (.neg (.num x.toNat)) = { lo := -x } ∧
    run (.isZero (.num x.toNat)) = { lo := BitVec.ofNat _ (x == 0).toNat, flag := x == 0 } ∧
    (∃ lo, run (.mulhu (.num x.toNat) (.num y.toNat)) =
      { lo := lo, hi := BitVec.ofNat _ (x.toNat * y.toNat / 2 ^ wd.bits) }) ∧
    (∃ lo, run (.mulh (.num x.toNat) (.num y.toNat)) =
      { lo := lo, hi := BitVec.ofInt _ (x.toInt * y.toInt / (2 : Int) ^ wd.bits) }) ∧
    (∃ lo, run (.mulhsu (.num x.toNat) (.num y.toNat)) =
      { lo := lo, hi := BitVec.ofInt _ (x.toInt * y.toNat / (2 : Int) ^ wd.bits) }) ∧
    run (.sextFrom (.num x.toNat) k) = { lo := (x.setWidth k).signExtend wd.bits } ∧
    run (.zextFrom (.num x.toNat) k) = { lo := (x.setWidth k).setWidth wd.bits } ∧
    run (.tst (.num x.toNat) (.num i.toNat)) =
      { lo := BitVec.ofNat _ (x.getLsbD (i.toNat % wd.bits)).toNat
        flag := x.getLsbD (i.toNat % wd.bits) } ∧
    run .allOnes = { lo := BitVec.allOnes _ } ∧
    run .minusOne = { lo := BitVec.ofInt _ (-1) }

/-! ### The host's side -/

/-- 70_reset_and_hazards.md R246: a read of the result ports gives the results while `DONE = 1` and is a host
fault while `DONE = 0`, in particular after reset and while a command is in flight in a coherent instance. -/
def Obligations.HostReadsOnlyWhileDone : Prop :=
  ∀ s : State,
    (s.regs.done = true → hostRead s = .ok s.regs.results) ∧
    (s.regs.done = false → hostRead s = .error .readBeforeDone) ∧
    (s.Inv → s.regs.busy = true → hostRead s = .error .readBeforeDone) ∧
    hostRead (State.resetOf s.inst) = .error .readBeforeDone

/-- 20_memory.md R53, R55, 60_exceptions.md R224: `val` and `bytes` are inverse to each other on values and on
buffers of exactly `W/8` bytes, and a buffer of another length is the host fault `ShortBuffer`. -/
def Obligations.BytesRoundTrip : Prop :=
  ∀ wd : Width,
    (∀ x : BitVec wd.bits, hostVal wd.bits (bytesOf x) = .ok x) ∧
    (∀ bs : List Byte, bs.length = wd.bits / 8 →
      ∃ x : BitVec wd.bits, hostVal wd.bits bs = .ok x ∧ bytesOf x = bs) ∧
    ∀ bs : List Byte, bs.length ≠ wd.bits / 8 → hostVal wd.bits bs = .error .shortBuffer

/-- 20_memory.md R51, R52, R56: byte `i` holds bits `[8i, 8i+8)`; a composite value's image is its low half's
followed by its high half's; and the low-half image of a `PUT_LO` result is the image of the low half. -/
def Obligations.ByteImages : Prop :=
  (∀ (wd : Width) (x : BitVec wd.bits) (i j : Nat), i < wd.bits / 8 → j < 8 →
    ((bytesOf x).getD i 0).getLsbD j = x.getLsbD (8 * i + j)) ∧
  (∀ (h : Nat) (x : BitVec (8 * h + 8 * h)), bytesOf x = bytesOf (loHalf x) ++ bytesOf (hiHalf x)) ∧
  ∀ (wd : Width) (x : Command wd.bits), wd ≠ .w8 →
    lowHalfImage (putLoResult x).lo = bytesOf (x.a.setWidth (wd.bits / 2)) ∧
    bytesOf (putLoResult x).lo =
      bytesOf (x.a.setWidth (wd.bits / 2)) ++ List.replicate (wd.bits / 16) 0

/-- 30_encoding.md R79: on an idle instance a line `v := MNEMONIC ...` completes, at whatever latency the
implementation takes, and binds to `v` the results `F_W` gives the written command (the conventions of the
script machine are log entry 13). -/
def Obligations.IssueLineBindsTheResults : Prop :=
  ∀ (ls : List Line) (h : HostState) (s : State) (v : String) (blk : Nat) (c : Written),
    h.blocks[blk]? = some s → s.regs.busy = false →
    let x : Command s.bits := assemble s.inst.width h.env c
    ∃ r : Regs s.bits,
      runLine ls h (.issue v blk c) = .next
        { blocks := h.blocks.set blk { inst := s.inst, regs := r, inputs := [] }
          env := (v, .res (commandResult x).toHost) :: h.env
          line := h.line + 1
          halted := h.halted
          lats := h.lats.tail } ∧
      r.busy = false ∧ r.done = true ∧ r.latched = x ∧ r.results = commandResult x

/-- 20_memory.md R60: a line of a script changes no instance but the one it issues a command to. That the others
take no edge meanwhile is the model's choice (log entry 19). -/
def Obligations.InstancesAreIndependent : Prop :=
  ∀ (ls : List Line) (h t : HostState) (l : Line) (j : Nat), runLine ls h l = .next t →
    (∀ v blk c, l = .issue v blk c → blk ≠ j) →
    t.blocks[j]? = h.blocks[j]? ∧ t.blocks.length = h.blocks.length

/-! ### Constants and conversions -/

/-- 40_constants_conversion.md R100 to R105, 00_scope.md R11. -/
def Obligations.ConstantCommands : Prop :=
  ∀ s : State,
    exec .zero s = .next (s.withResults { lo := BitVec.ofNat _ 0 }) ∧
    exec .one s = .next (s.withResults { lo := BitVec.ofNat _ 1 }) ∧
    exec .minU s = .next (s.withResults { lo := BitVec.ofNat _ 0 }) ∧
    exec .maxU s = .next (s.withResults { lo := BitVec.ofNat _ (2 ^ s.bits - 1) }) ∧
    exec .minS s = .next (s.withResults { lo := BitVec.ofNat _ (2 ^ (s.bits - 1)) }) ∧
    exec .maxS s = .next (s.withResults { lo := BitVec.ofNat _ (2 ^ (s.bits - 1) - 1) })

/-- 40_constants_conversion.md R107 to R112: bit by bit, a conversion from a bool or an unsigned native
scalar of `k` bits keeps the scalar's bits below `W` and has zeros above them; bits `S[127:k]` are ignored. -/
def Obligations.UnsignedScalarsZeroExtend : Prop :=
  ∀ (i : Instr) (k : Nat),
    (i, k) ∈ [(Instr.fromBool, 1), (.fromU8, 8), (.fromU16, 16), (.fromU32, 32), (.fromU64, 64), (.fromU128, 128)] →
    ∀ s : State, ∃ v : BitVec s.bits, exec i s = .next (s.withResults { lo := v }) ∧
      ∀ j, j < s.bits → v.getLsbD j = (decide (j < k) && s.regs.sl.getLsbD j)

/-- 40_constants_conversion.md R113 to R117: bit by bit, a conversion from a signed native scalar of `k` bits
keeps the scalar's bits below `W` and has copies of `S[k-1]` above them. -/
def Obligations.SignedScalarsSignExtend : Prop :=
  ∀ (i : Instr) (k : Nat),
    (i, k) ∈ [(Instr.fromI8, 8), (.fromI16, 16), (.fromI32, 32), (.fromI64, 64), (.fromI128, 128)] →
    ∀ s : State, ∃ v : BitVec s.bits, exec i s = .next (s.withResults { lo := v }) ∧
      ∀ j, j < s.bits → v.getLsbD j = s.regs.sl.getLsbD (min j (k - 1))

/-- 40_constants_conversion.md R118: `FROM_NARROW` zero-extends the low `k = u(N)` bits of `A` where `k` is a
family width below `W`, and raises `IllegalOperand` for every other `k`. -/
def Obligations.FromNarrowZeroExtendsOrRefuses : Prop :=
  ∀ s : State,
    ((∃ v : Width, v.bits = s.regs.nl.toNat ∧ v.bits < s.bits) →
      exec .fromNarrow s = .next (s.withResults { lo := BitVec.ofNat _ (s.regs.al.toNat % 2 ^ s.regs.nl.toNat) })) ∧
    ((¬∃ v : Width, v.bits = s.regs.nl.toNat ∧ v.bits < s.bits) →
      exec .fromNarrow s = .next (s.withResults { err := 2 }))

/-- 40_constants_conversion.md R119 to R123, 30_encoding.md R73: `TO_U<k>` gives `u(A) mod 2^k` on `RS`. -/
def Obligations.ToUnsignedScalars : Prop :=
  ∀ (i : Instr) (k : Nat),
    (i, k) ∈ [(Instr.toU8, 8), (.toU16, 16), (.toU32, 32), (.toU64, 64), (.toU128, 128)] →
    ∀ s : State, exec i s = .next (s.withResults { rs := BitVec.ofNat 128 (s.regs.al.toNat % 2 ^ k) })

/-- 40_constants_conversion.md R124 to R128, 30_encoding.md R73: `TO_I<k>` gives the `k`-bit pattern of `s(A)`
on `RS` with `RS[127:k] = 0`; it is the pattern of `TO_U<k>` whenever `k <= W`. -/
def Obligations.ToSignedScalars : Prop :=
  ∀ (i j : Instr) (k : Nat),
    (i, j, k) ∈ [(Instr.toI8, Instr.toU8, 8), (.toI16, .toU16, 16), (.toI32, .toU32, 32), (.toI64, .toU64, 64),
      (.toI128, .toU128, 128)] →
    ∀ s : State,
      exec i s = .next (s.withResults { rs := (BitVec.ofInt k s.regs.al.toInt).setWidth 128 }) ∧
      (k ≤ s.bits → exec i s = exec j s)

/-! ### Comparison, bitwise operations, bit scan, bit test -/

/-- 41_compare_bitwise.md R129 to R132: orderings as -1, 0, 1 in `R_LO`, equality in `FLAG` and `R_LO`. -/
def Obligations.Comparisons : Prop :=
  ∀ s : State,
    exec .cmpU s = .next (s.withResults
      { lo := if s.regs.al.toNat < s.regs.bl.toNat then BitVec.ofInt _ (-1)
              else if s.regs.al.toNat = s.regs.bl.toNat then 0 else 1 }) ∧
    exec .cmpS s = .next (s.withResults
      { lo := if s.regs.al.toInt < s.regs.bl.toInt then BitVec.ofInt _ (-1)
              else if s.regs.al.toInt = s.regs.bl.toInt then 0 else 1 }) ∧
    exec .eq s = .next (s.withResults
      { lo := if s.regs.al = s.regs.bl then 1 else 0, flag := decide (s.regs.al = s.regs.bl) })

/-- 41_compare_bitwise.md R134 to R138: each result bit depends on the operands' bits of its own place. -/
def Obligations.BitwiseOperations : Prop :=
  ∀ s : State, ∃ v1 v2 v3 v4 : BitVec s.bits,
    exec .and s = .next (s.withResults { lo := v1 }) ∧
    exec .or s = .next (s.withResults { lo := v2 }) ∧
    exec .xor s = .next (s.withResults { lo := v3 }) ∧
    exec .not s = .next (s.withResults { lo := v4 }) ∧
    ∀ j, j < s.bits →
      v1.getLsbD j = (s.regs.al.getLsbD j && s.regs.bl.getLsbD j) ∧
      v2.getLsbD j = (s.regs.al.getLsbD j || s.regs.bl.getLsbD j) ∧
      v3.getLsbD j = (s.regs.al.getLsbD j ^^ s.regs.bl.getLsbD j) ∧
      v4.getLsbD j = !s.regs.al.getLsbD j

/-- 41_compare_bitwise.md R139, R140, R141, R144: `CLZ` is the largest `c <= W` such that the top `c` bits of
`A` are zero, `CTZ` the largest such that the low `c` bits are, `CPOP` the number of 1 bits; each count is in
`[0, W]` and stands in `R_LO` without wrapping. -/
def Obligations.BitScans : Prop :=
  ∀ s : State, ∃ c d p : BitVec s.bits,
    exec .clz s = .next (s.withResults { lo := c }) ∧
    exec .ctz s = .next (s.withResults { lo := d }) ∧
    exec .cpop s = .next (s.withResults { lo := p }) ∧
    c.toNat ≤ s.bits ∧ (∀ j, j < c.toNat → s.regs.al.getMsbD j = false) ∧
    (c.toNat < s.bits → s.regs.al.getMsbD c.toNat = true) ∧
    d.toNat ≤ s.bits ∧ (∀ j, j < d.toNat → s.regs.al.getLsbD j = false) ∧
    (d.toNat < s.bits → s.regs.al.getLsbD d.toNat = true) ∧
    p.toNat ≤ s.bits ∧ p.toNat = ((List.range s.bits).filter fun j => s.regs.al.getLsbD j).length

/-- 41_compare_bitwise.md R145, R146, R147: the bit index is `u(N) mod W`; `BIT` gives that bit in
`FLAG` and `R_LO`, `BIT_SET` and `BIT_CLR` change that bit of the receiver and no other. -/
def Obligations.BitTestSetClear : Prop :=
  ∀ s : State, ∃ v1 v2 : BitVec s.bits,
    exec .bit s = .next (s.withResults
      { lo := if s.regs.al.getLsbD (s.regs.nl.toNat % s.bits) then 1 else 0
        flag := s.regs.al.getLsbD (s.regs.nl.toNat % s.bits) }) ∧
    exec .bitSet s = .next (s.withResults { lo := v1 }) ∧
    exec .bitClr s = .next (s.withResults { lo := v2 }) ∧
    ∀ j, j < s.bits →
      v1.getLsbD j = (s.regs.al.getLsbD j || decide (j = s.regs.nl.toNat % s.bits)) ∧
      v2.getLsbD j = (s.regs.al.getLsbD j && decide (j ≠ s.regs.nl.toNat % s.bits))

/-! ### Shifts and extension -/

/-- 42_shift_extend.md R150, R151, R152, with the shift amount of R148 and 30_encoding.md R72: with `k = u(N) mod W`, which is
`u(N[LOG2W-1:0])`: `SHL` gives the low `W` bits of `u(A) * 2^k`, `SHR` the floor of `u(A) / 2^k`, `SRA` the
floor of `s(A) / 2^k`. -/
def Obligations.Shifts : Prop :=
  ∀ (s : State) (k : Nat), k = s.regs.nl.toNat % s.bits →
    k = s.regs.nl.toNat % 2 ^ s.inst.width.log2 ∧
    exec .shl s = .next (s.withResults { lo := BitVec.ofNat _ (s.regs.al.toNat * 2 ^ k) }) ∧
    exec .shr s = .next (s.withResults { lo := BitVec.ofNat _ (s.regs.al.toNat / 2 ^ k) }) ∧
    exec .sra s = .next (s.withResults { lo := BitVec.ofInt _ (s.regs.al.toInt / (2 : Int) ^ k) })

/-- 42_shift_extend.md R153, R154: with `p = u(N) mod W`, `SEXT` is the sign extension and `ZEXT` the
zero extension of `A[p:0]` to `W` bits. -/
def Obligations.ExtensionFromABit : Prop :=
  ∀ (s : State) (p : Nat), p = s.regs.nl.toNat % s.bits →
    exec .sext s = .next (s.withResults { lo := (s.regs.al.setWidth (p + 1)).signExtend s.bits }) ∧
    exec .zext s = .next (s.withResults { lo := (s.regs.al.setWidth (p + 1)).setWidth s.bits })

/-- 42_shift_extend.md R155: with `p = u(N) mod W` and `t = W - 1 - p`, both extensions are two shifts by `t`,
and `t` is also the 32-bit wrap of `W - 1 - u(N)` modulo `W`. -/
def Obligations.ExtensionShiftsTwice : Prop :=
  ∀ (wd : Width) (x : Command wd.bits) (t : Nat), t = wd.bits - 1 - x.n.toNat % wd.bits →
    t < wd.bits ∧ extendShiftWrapped x = t ∧
    sextResult x = { lo := (x.a <<< t).sshiftRight t } ∧
    zextResult x = { lo := (x.a <<< t) >>> t }

/-! ### Addition and subtraction -/

/-- 43_add_sub.md R160, R161: wrapping sum and difference, `FLAG` 0, no error; and the additive inverse law:
`ADD` of `x` and of what `SUB` of `ZERO` and `x` leaves in `R_LO` is `ZERO`. -/
def Obligations.WrappingAddSub : Prop :=
  ∀ s : State,
    exec .add s = .next (s.withResults { lo := BitVec.ofNat _ (s.regs.al.toNat + s.regs.bl.toNat) }) ∧
    exec .sub s = .next (s.withResults { lo := BitVec.ofInt _ ((s.regs.al.toNat : Int) - s.regs.bl.toNat) }) ∧
    ∀ (n : Word32) (c : Scalar) (x : BitVec s.bits),
      (addResult { a := x, b := (subResult { a := 0, b := x, n := n, s := c }).lo, n := n, s := c }).lo = 0

/-- 43_add_sub.md R162 to R165: the wrapped result, and `FLAG` exactly when the exact unsigned sum or
difference, or the exact signed one, is not representable in `W` bits. -/
def Obligations.OverflowingAddSub : Prop :=
  ∀ s : State,
    exec .addOvfU s = .next (s.withResults
      { lo := s.regs.al + s.regs.bl, flag := decide (2 ^ s.bits ≤ s.regs.al.toNat + s.regs.bl.toNat) }) ∧
    exec .subOvfU s = .next (s.withResults
      { lo := s.regs.al - s.regs.bl, flag := decide (s.regs.al.toNat < s.regs.bl.toNat) }) ∧
    exec .addOvfS s = .next (s.withResults
      { lo := s.regs.al + s.regs.bl
        flag := decide (s.regs.al.toInt + s.regs.bl.toInt < -(2 : Int) ^ (s.bits - 1) ∨
          (2 : Int) ^ (s.bits - 1) ≤ s.regs.al.toInt + s.regs.bl.toInt) }) ∧
    exec .subOvfS s = .next (s.withResults
      { lo := s.regs.al - s.regs.bl
        flag := decide (s.regs.al.toInt - s.regs.bl.toInt < -(2 : Int) ^ (s.bits - 1) ∨
          (2 : Int) ^ (s.bits - 1) ≤ s.regs.al.toInt - s.regs.bl.toInt) })

/-- 43_add_sub.md R166 to R169: the saturating operations give the representable value nearest to the exact
result, and `FLAG` says that it is not the exact result. -/
def Obligations.SaturatingAddSub : Prop :=
  ∀ s : State, ∃ v1 v2 v3 v4 : BitVec s.bits,
    exec .addSatU s = .next (s.withResults
      { lo := v1, flag := decide (v1.toNat ≠ s.regs.al.toNat + s.regs.bl.toNat) }) ∧
    exec .subSatU s = .next (s.withResults
      { lo := v2, flag := decide ((v2.toNat : Int) ≠ (s.regs.al.toNat : Int) - s.regs.bl.toNat) }) ∧
    exec .addSatS s = .next (s.withResults
      { lo := v3, flag := decide (v3.toInt ≠ s.regs.al.toInt + s.regs.bl.toInt) }) ∧
    exec .subSatS s = .next (s.withResults
      { lo := v4, flag := decide (v4.toInt ≠ s.regs.al.toInt - s.regs.bl.toInt) }) ∧
    v1.toNat = min (s.regs.al.toNat + s.regs.bl.toNat) (2 ^ s.bits - 1) ∧
    v2.toNat = s.regs.al.toNat - s.regs.bl.toNat ∧
    v3.toInt = max (-(2 : Int) ^ (s.bits - 1)) (min (s.regs.al.toInt + s.regs.bl.toInt) ((2 : Int) ^ (s.bits - 1) - 1)) ∧
    v4.toInt = max (-(2 : Int) ^ (s.bits - 1)) (min (s.regs.al.toInt - s.regs.bl.toInt) ((2 : Int) ^ (s.bits - 1) - 1))

/-- 43_add_sub.md R170 to R173: `{R_HI, R_LO}` is the exact sum or difference in `2W` bits: read unsigned for
`ADD_WIDE_U`, and signed for the other three, it is that integer. -/
def Obligations.WideningAddSub : Prop :=
  ∀ s : State, ∃ l1 h1 l2 h2 l3 h3 l4 h4 : BitVec s.bits,
    exec .addWideU s = .next (s.withResults { lo := l1, hi := h1 }) ∧
    exec .subWideU s = .next (s.withResults { lo := l2, hi := h2 }) ∧
    exec .addWideS s = .next (s.withResults { lo := l3, hi := h3 }) ∧
    exec .subWideS s = .next (s.withResults { lo := l4, hi := h4 }) ∧
    (h1 ++ l1).toNat = s.regs.al.toNat + s.regs.bl.toNat ∧
    (h2 ++ l2).toInt = (s.regs.al.toNat : Int) - s.regs.bl.toNat ∧
    (h3 ++ l3).toInt = s.regs.al.toInt + s.regs.bl.toInt ∧
    (h4 ++ l4).toInt = s.regs.al.toInt - s.regs.bl.toInt ∧
    (h1 = 0 ∨ h1 = 1) ∧ (h2 = 0 ∨ h2 = BitVec.allOnes _) ∧
    (h3 = 0 ∨ h3 = BitVec.allOnes _) ∧ (h4 = 0 ∨ h4 = BitVec.allOnes _)

/-- 43_add_sub.md R175 to R178: the floor of half the exact sum or difference, which always fits: read unsigned
for `AVG_ADD_U` and signed for the other three. -/
def Obligations.AveragingAddSub : Prop :=
  ∀ s : State, ∃ v1 v2 v3 v4 : BitVec s.bits,
    exec .avgAddU s = .next (s.withResults { lo := v1 }) ∧
    exec .avgSubU s = .next (s.withResults { lo := v2 }) ∧
    exec .avgAddS s = .next (s.withResults { lo := v3 }) ∧
    exec .avgSubS s = .next (s.withResults { lo := v4 }) ∧
    v1.toNat = (s.regs.al.toNat + s.regs.bl.toNat) / 2 ∧
    v2.toInt = ((s.regs.al.toNat : Int) - s.regs.bl.toNat) / 2 ∧
    v3.toInt = (s.regs.al.toInt + s.regs.bl.toInt) / 2 ∧
    v4.toInt = (s.regs.al.toInt - s.regs.bl.toInt) / 2

/-! ### Multiplication -/

/-- 44_multiply.md R190 to R193: `{R_HI, R_LO}` is the exact product: unsigned, signed, and signed by
unsigned; `MUL` gives the low half of the unsigned product, which is also that of the signed product. -/
def Obligations.Products : Prop :=
  ∀ s : State, ∃ l h1 h2 h3 : BitVec s.bits,
    exec .mul s = .next (s.withResults { lo := l }) ∧
    exec .mulWideU s = .next (s.withResults { lo := l, hi := h1 }) ∧
    exec .mulWideS s = .next (s.withResults { lo := l, hi := h2 }) ∧
    exec .mulWideSU s = .next (s.withResults { lo := l, hi := h3 }) ∧
    (h1 ++ l).toNat = s.regs.al.toNat * s.regs.bl.toNat ∧
    (h2 ++ l).toInt = s.regs.al.toInt * s.regs.bl.toInt ∧
    (h3 ++ l).toInt = s.regs.al.toInt * s.regs.bl.toNat

/-- 44_multiply.md R194, R195: the wrapped product, and `FLAG` exactly when the exact unsigned or signed
product is not representable in `W` bits. -/
def Obligations.OverflowingProducts : Prop :=
  ∀ s : State,
    exec .mulOvfU s = .next (s.withResults
      { lo := s.regs.al * s.regs.bl, flag := decide (2 ^ s.bits ≤ s.regs.al.toNat * s.regs.bl.toNat) }) ∧
    exec .mulOvfS s = .next (s.withResults
      { lo := s.regs.al * s.regs.bl
        flag := decide (s.regs.al.toInt * s.regs.bl.toInt < -(2 : Int) ^ (s.bits - 1) ∨
          (2 : Int) ^ (s.bits - 1) ≤ s.regs.al.toInt * s.regs.bl.toInt) })

/-! ### Division -/

/-- 45_divide.md R200 to R204: the four operations complete for every dividend and divisor, with the quotient
rounded toward zero and the remainder of that quotient, and with the values of the rules for division by
zero and for `MIN_S / -1`. -/
def Obligations.DivisionIsTotal : Prop :=
  ∀ s : State,
    exec .divU s = .next (s.withResults
      { lo := if s.regs.bl.toNat = 0 then BitVec.allOnes _
              else BitVec.ofNat _ (s.regs.al.toNat / s.regs.bl.toNat) }) ∧
    exec .remU s = .next (s.withResults
      { lo := if s.regs.bl.toNat = 0 then s.regs.al
              else BitVec.ofNat _ (s.regs.al.toNat % s.regs.bl.toNat) }) ∧
    exec .divS s = .next (s.withResults
      { lo := if s.regs.bl = 0 then BitVec.allOnes _
              else if s.regs.al = BitVec.intMin _ ∧ s.regs.bl = BitVec.allOnes _ then BitVec.intMin _
              else BitVec.ofInt _ (s.regs.al.toInt.tdiv s.regs.bl.toInt) }) ∧
    exec .remS s = .next (s.withResults
      { lo := if s.regs.bl = 0 then s.regs.al
              else if s.regs.al = BitVec.intMin _ ∧ s.regs.bl = BitVec.allOnes _ then 0
              else BitVec.ofInt _ (s.regs.al.toInt.tmod s.regs.bl.toInt) })

/-- 45_divide.md R206: the division identities, for every `B ≠ ZERO`, with the exception of the signed
overflow, where the identity holds modulo `2^W` only. -/
def Obligations.DivisionIdentities : Prop :=
  ∀ s : State, s.regs.bl ≠ 0 → ∃ q r q' r' : BitVec s.bits,
    exec .divU s = .next (s.withResults { lo := q }) ∧
    exec .remU s = .next (s.withResults { lo := r }) ∧
    exec .divS s = .next (s.withResults { lo := q' }) ∧
    exec .remS s = .next (s.withResults { lo := r' }) ∧
    s.regs.al.toNat = q.toNat * s.regs.bl.toNat + r.toNat ∧ r.toNat < s.regs.bl.toNat ∧
    (¬(s.regs.al = BitVec.intMin _ ∧ s.regs.bl = BitVec.allOnes _) →
      s.regs.al.toInt = q'.toInt * s.regs.bl.toInt + r'.toInt ∧
      |r'.toInt| < |s.regs.bl.toInt| ∧ (r' = 0 ∨ r'.msb = s.regs.al.msb)) ∧
    (s.regs.al = BitVec.intMin _ ∧ s.regs.bl = BitVec.allOnes _ →
      q' = BitVec.intMin _ ∧ r' = 0 ∧ s.regs.al = q' * s.regs.bl + r' ∧
      s.regs.al.toInt ≠ q'.toInt * s.regs.bl.toInt + r'.toInt)

/-! ### The low half -/

/-- 46_serialization.md R210, R211: `PUT_LO` zero-extends the low half and raises `IllegalOp` at W = 8;
`LO_SEXT` sign-extends it at every width, as `SEXT` with `n = H - 1` does. -/
def Obligations.LowHalfCommands : Prop :=
  ∀ s : State,
    (s.inst.width ≠ .w8 →
      exec .putLo s = .next (s.withResults { lo := BitVec.ofNat _ (s.regs.al.toNat % 2 ^ (s.bits / 2)) })) ∧
    (s.inst.width = .w8 → exec .putLo s = .next (s.withResults { err := 1 })) ∧
    exec .loSext s = .next (s.withResults { lo := (s.regs.al.setWidth (s.bits / 2)).signExtend s.bits }) ∧
    ∀ x : Command s.bits, x.n.toNat = s.bits / 2 - 1 → loSextResult x = sextResult x

/-! ### The structure rules: operations on halves give the whole-value results -/

/-- 41_compare_bitwise.md R133. -/
def Obligations.ComparisonOfHalves : Prop :=
  ∀ (h : Nat) (x : Command (h + h)), 0 < h →
    cmpUResult x = { lo := orderPattern (h + h) (cmpUHalves x.a x.b) } ∧
    cmpSResult x = { lo := orderPattern (h + h) (cmpSHalves x.a x.b) } ∧
    (eqResult x).flag = eqHalves x.a x.b

/-- 41_compare_bitwise.md R134. -/
def Obligations.BitwiseOfHalves : Prop :=
  ∀ (h : Nat) (x : Command (h + h)), 0 < h →
    andResult x = { lo := bitwiseHalves (· &&& ·) x.a x.b } ∧
    orResult x = { lo := bitwiseHalves (· ||| ·) x.a x.b } ∧
    xorResult x = { lo := bitwiseHalves (· ^^^ ·) x.a x.b } ∧
    notResult x = { lo := bitwiseHalves (fun v _ => ~~~v) x.a x.b }

/-- 41_compare_bitwise.md R143: the index is `u(N) mod W`, and the bit is that of the half the index falls in. -/
def Obligations.BitIndexOfHalves : Prop :=
  ∀ (h : Nat) (x : Command (h + h)), 0 < h →
    (bitResult x).flag = bitHalves x.a (x.n.toNat % (h + h)) ∧
    bitSetResult x = { lo := changeBitHalves setBit x.a (x.n.toNat % (h + h)) } ∧
    bitClrResult x = { lo := changeBitHalves clearBit x.a (x.n.toNat % (h + h)) }

/-- 41_compare_bitwise.md R142. -/
def Obligations.BitScansOfHalves : Prop :=
  ∀ (h : Nat) (x : Command (h + h)), 0 < h →
    clzResult x = { lo := BitVec.ofNat (h + h) (clzHalves x.a) } ∧
    ctzResult x = { lo := BitVec.ofNat (h + h) (ctzHalves x.a) } ∧
    cpopResult x = { lo := BitVec.ofNat (h + h) (cpopHalves x.a) }

/-- 42_shift_extend.md R149. -/
def Obligations.ShiftsOfHalves : Prop :=
  ∀ (h : Nat) (x : Command (h + h)), 0 < h →
    shlResult x = { lo := shlHalves x.a (x.n.toNat % (h + h)) } ∧
    shrResult x = { lo := shrHalves x.a (x.n.toNat % (h + h)) } ∧
    sraResult x = { lo := sraHalves x.a (x.n.toNat % (h + h)) }

/-- 43_add_sub.md R156: the carry chain and the borrow chain give the sum, the carry, the difference and the
borrow of the whole width. -/
def Obligations.CarryChainOfHalves : Prop :=
  ∀ (h : Nat) (x : Command (h + h)), 0 < h →
    addOvfUResult x = { lo := (addHalves x.a x.b).1, flag := (addHalves x.a x.b).2 } ∧
    subOvfUResult x = { lo := (subHalves x.a x.b).1, flag := (subHalves x.a x.b).2 } ∧
    addResult x = { lo := (addHalves x.a x.b).1 } ∧
    subResult x = { lo := (subHalves x.a x.b).1 }

/-- 44_multiply.md R196: the half-split identity gives the exact product, and its two words are those of
`MUL_WIDE_U`, the low one that of `MUL`. -/
def Obligations.ProductOfHalves : Prop :=
  ∀ (h : Nat) (x : Command (h + h)), 0 < h →
    productHalves x.a x.b = x.a.toNat * x.b.toNat ∧
    mulWideUResult x = { lo := (mulHalves x.a x.b).1, hi := (mulHalves x.a x.b).2 } ∧
    mulResult x = { lo := (mulHalves x.a x.b).1 }

/-- 44_multiply.md R197: the signed and mixed products are the unsigned one with its high word corrected. -/
def Obligations.SignedProductCorrection : Prop :=
  ∀ (wd : Width) (x : Command wd.bits),
    mulWideSResult x =
      { lo := (mulWideUResult x).lo, hi := correctSS x.a x.b (mulWideUResult x).hi } ∧
    mulWideSUResult x =
      { lo := (mulWideUResult x).lo, hi := correctSU x.a x.b (mulWideUResult x).hi }

/-- 45_divide.md R205: signed division by magnitudes, outside the special cases of R201 and R203. -/
def Obligations.DivisionByMagnitudes : Prop :=
  ∀ (wd : Width) (x : Command wd.bits), x.b ≠ 0 →
    ¬(x.a = BitVec.intMin _ ∧ x.b = BitVec.allOnes _) →
    divSResult x = { lo := (divByMagnitudes x.a x.b).1 } ∧
    remSResult x = { lo := (divByMagnitudes x.a x.b).2 }

/-- 45_divide.md R207: the reference algorithm, its short-circuit, its one-word sweep and Knuth's Algorithm D,
in the reading of log entry 16, gives the quotient and the remainder of the whole-value rules for every
divisor but zero. -/
def Obligations.ReferenceDivisionAgrees : Prop :=
  ∀ (wd : Width) (x : Command wd.bits), x.b ≠ 0 →
    divUResult x = { lo := (longDivideU x.a x.b).1 } ∧
    remUResult x = { lo := (longDivideU x.a x.b).2 }
end

