-- ==== Sys2Proof/Laws/State.lean ====
section
/-! SUPPORT. One lemma per field per update of the registers and of the state, each true by `rfl`, so that no
proof unfolds a record update. -/

namespace Sys2Proof.Machine

variable {w : Nat} (r : Regs w) (x : Results w) (i : Inputs w) (m : Nat)

@[simp] theorem Regs.complete_busy : (r.complete x).busy = false := rfl
@[simp] theorem Regs.complete_done : (r.complete x).done = true := rfl
@[simp] theorem Regs.complete_opl : (r.complete x).opl = r.opl := rfl
@[simp] theorem Regs.complete_al : (r.complete x).al = r.al := rfl
@[simp] theorem Regs.complete_bl : (r.complete x).bl = r.bl := rfl
@[simp] theorem Regs.complete_nl : (r.complete x).nl = r.nl := rfl
@[simp] theorem Regs.complete_sl : (r.complete x).sl = r.sl := rfl
@[simp] theorem Regs.complete_rLo : (r.complete x).rLo = x.lo := rfl
@[simp] theorem Regs.complete_rHi : (r.complete x).rHi = x.hi := rfl
@[simp] theorem Regs.complete_flag : (r.complete x).flag = x.flag := rfl
@[simp] theorem Regs.complete_rs : (r.complete x).rs = x.rs := rfl
@[simp] theorem Regs.complete_err : (r.complete x).err = x.err := rfl
@[simp] theorem Regs.complete_cnt : (r.complete x).cnt = r.cnt := rfl
@[simp] theorem Regs.accept_busy : (r.accept i m).busy = true := rfl
@[simp] theorem Regs.accept_done : (r.accept i m).done = false := rfl
@[simp] theorem Regs.accept_opl : (r.accept i m).opl = i.op := rfl
@[simp] theorem Regs.accept_al : (r.accept i m).al = i.a := rfl
@[simp] theorem Regs.accept_bl : (r.accept i m).bl = i.b := rfl
@[simp] theorem Regs.accept_nl : (r.accept i m).nl = i.n := rfl
@[simp] theorem Regs.accept_sl : (r.accept i m).sl = i.s := rfl
@[simp] theorem Regs.accept_rLo : (r.accept i m).rLo = r.rLo := rfl
@[simp] theorem Regs.accept_rHi : (r.accept i m).rHi = r.rHi := rfl
@[simp] theorem Regs.accept_flag : (r.accept i m).flag = r.flag := rfl
@[simp] theorem Regs.accept_rs : (r.accept i m).rs = r.rs := rfl
@[simp] theorem Regs.accept_err : (r.accept i m).err = r.err := rfl
@[simp] theorem Regs.accept_cnt : (r.accept i m).cnt = Config.loadCount m i.lat := rfl
@[simp] theorem Regs.countDown_busy : r.countDown.busy = r.busy := rfl
@[simp] theorem Regs.countDown_done : r.countDown.done = r.done := rfl
@[simp] theorem Regs.countDown_opl : r.countDown.opl = r.opl := rfl
@[simp] theorem Regs.countDown_al : r.countDown.al = r.al := rfl
@[simp] theorem Regs.countDown_bl : r.countDown.bl = r.bl := rfl
@[simp] theorem Regs.countDown_nl : r.countDown.nl = r.nl := rfl
@[simp] theorem Regs.countDown_sl : r.countDown.sl = r.sl := rfl
@[simp] theorem Regs.countDown_rLo : r.countDown.rLo = r.rLo := rfl
@[simp] theorem Regs.countDown_rHi : r.countDown.rHi = r.rHi := rfl
@[simp] theorem Regs.countDown_flag : r.countDown.flag = r.flag := rfl
@[simp] theorem Regs.countDown_rs : r.countDown.rs = r.rs := rfl
@[simp] theorem Regs.countDown_err : r.countDown.err = r.err := rfl
@[simp] theorem Regs.countDown_cnt : r.countDown.cnt = r.cnt - 1 := rfl

@[simp] theorem Regs.complete_results : (r.complete x).results = x := rfl
@[simp] theorem Regs.complete_latched : (r.complete x).latched = r.latched := rfl
@[simp] theorem Regs.accept_results : (r.accept i m).results = r.results := rfl
@[simp] theorem Regs.accept_latched :
    (r.accept i m).latched = { op := i.op, a := i.a, b := i.b, n := i.n, s := i.s } := rfl
@[simp] theorem Regs.countDown_results : r.countDown.results = r.results := rfl
@[simp] theorem Regs.countDown_latched : r.countDown.latched = r.latched := rfl
@[simp] theorem Regs.resetValues_results : (Regs.resetValues w).results = {} := rfl

@[simp] theorem Regs.latched_op : r.latched.op = r.opl := rfl
@[simp] theorem Regs.latched_a : r.latched.a = r.al := rfl
@[simp] theorem Regs.latched_b : r.latched.b = r.bl := rfl
@[simp] theorem Regs.latched_n : r.latched.n = r.nl := rfl
@[simp] theorem Regs.latched_s : r.latched.s = r.sl := rfl
@[simp] theorem Regs.results_lo : r.results.lo = r.rLo := rfl
@[simp] theorem Regs.results_hi : r.results.hi = r.rHi := rfl
@[simp] theorem Regs.results_flag : r.results.flag = r.flag := rfl
@[simp] theorem Regs.results_rs : r.results.rs = r.rs := rfl
@[simp] theorem Regs.results_err : r.results.err = r.err := rfl

variable (p : InstanceParams) (q : Regs p.width.bits) (ins : List (Inputs p.width.bits))

/-! The operations on a state, on a state written out. A state's registers have a type that depends on its
parameters, so a proof takes a state apart first. -/

@[simp] theorem State.bits_mk : State.bits ⟨p, q, ins⟩ = p.width.bits := rfl
@[simp] theorem State.cmd_mk : State.cmd ⟨p, q, ins⟩ = q.latched := rfl
@[simp] theorem State.now_cons (i : Inputs p.width.bits) : State.now ⟨p, q, i :: ins⟩ = i := rfl
@[simp] theorem State.now_nil : State.now ⟨p, q, []⟩ = {} := rfl
@[simp] theorem State.advance_mk : State.advance ⟨p, q, ins⟩ = ⟨p, q, ins.tail⟩ := rfl
@[simp] theorem State.withResults_mk (x : Results p.width.bits) :
    State.withResults ⟨p, q, ins⟩ x = ⟨p, q.complete x, ins⟩ := rfl
@[simp] theorem State.complete_mk (x : Results p.width.bits) :
    State.complete ⟨p, q, ins⟩ x = .next ⟨p, q.complete x, ins⟩ := rfl
@[simp] theorem State.resetEdge_mk :
    State.resetEdge ⟨p, q, ins⟩ = ⟨p, Regs.resetValues p.width.bits, ins⟩ := rfl
@[simp] theorem State.acceptEdge_mk (i : Inputs p.width.bits) :
    State.acceptEdge ⟨p, q, ins⟩ i = ⟨p, q.accept i p.latMax, ins⟩ := rfl
@[simp] theorem State.countEdge_mk : State.countEdge ⟨p, q, ins⟩ = ⟨p, q.countDown, ins⟩ := rfl
@[simp] theorem State.placeOpcode_mk (op : Opcode) :
    State.placeOpcode ⟨p, q, ins⟩ op =
      ⟨p, { q with busy := true, done := false, opl := op, cnt := 0 }, quietNext ins⟩ := rfl
@[simp] theorem advanceNext_next (t : State) : advanceNext (.next t) = .next t.advance := rfl

theorem State.now_mk : State.now ⟨p, q, ins⟩ = ins.headD {} := rfl

end Sys2Proof.Machine
end

