-- ==== Sys2Proof/Laws/Bits.lean ====
section
/-! SUPPORT. The notation of Machine/Bits.lean in the library's terms, so that the library's lemmas on `BitVec`
apply. -/

namespace Sys2Proof.Machine

variable {w : Nat}

theorem u_eq_toNat (v : BitVec w) : u v = v.toNat := rfl

theorem sgn_eq_toInt (v : BitVec w) : sgn v = v.toInt := by
  simp only [sgn, BitVec.toInt_eq_msb_cond]

theorem bv_eq_ofInt (n : Nat) (i : Int) : bv n i = BitVec.ofInt n i := rfl

@[simp] theorem bv_natCast (n k : Nat) : bv n (k : Int) = BitVec.ofNat n k := by
  apply BitVec.eq_of_toNat_eq
  simp only [bv, BitVec.toNat_ofInt, BitVec.toNat_ofNat]
  omega

theorem zextTo_eq_setWidth (n : Nat) (v : BitVec w) : zextTo n v = v.setWidth n := by
  simp [zextTo, u]

theorem sextTo_eq_signExtend (n : Nat) (v : BitVec w) : sextTo n v = v.signExtend n := by
  unfold sextTo
  split
  · rw [sgn_eq_toInt]; rfl
  · rw [BitVec.signExtend_eq_setWidth_of_le _ (by omega)]
    simp [u]

theorem fdiv_eq_ediv (a : Int) {b : Int} (hb : 0 ≤ b) : fdiv a b = a / b :=
  Int.fdiv_eq_ediv_of_nonneg a hb

theorem trem_eq_tmod (a b : Int) : trem a b = Int.tmod a b := (Int.tmod_def a b).symm

theorem cZero_eq (w : Nat) : cZero w = 0#w := bv_natCast w 0

theorem cMinU_eq (w : Nat) : cMinU w = 0#w := bv_natCast w 0

theorem cOne_eq (w : Nat) : cOne w = 1#w := bv_natCast w 1

theorem cMaxU_eq (w : Nat) : cMaxU w = BitVec.allOnes w := by
  have h : ((2 ^ w : Nat) : Int) - 1 = ((2 ^ w - 1 : Nat) : Int) := by
    have := Nat.two_pow_pos w
    omega
  unfold cMaxU
  rw [h, bv_natCast]
  apply BitVec.eq_of_toNat_eq
  have := Nat.two_pow_pos w
  simp only [BitVec.toNat_ofNat, BitVec.toNat_allOnes]
  exact Nat.mod_eq_of_lt (by omega)

theorem cMinS_eq (w : Nat) : cMinS w = BitVec.intMin w := by
  unfold cMinS
  rw [bv_natCast]
  apply BitVec.eq_of_toNat_eq
  simp only [BitVec.intMin, BitVec.toNat_ofNat, BitVec.toNat_twoPow]

theorem ofBool_eq (w : Nat) (t : Bool) : ofBool w t = if t then 1#w else 0#w := by
  cases t <;> simp only [ofBool]
  · exact bv_natCast w 0
  · exact bv_natCast w 1

theorem bitsAt_zero_eq_setWidth (v : BitVec w) (k : Nat) : bitsAt v 0 k = v.setWidth k := by
  apply BitVec.eq_of_getLsbD_eq
  intro i hi
  simp [bitsAt, hi]

theorem bits_pos (wd : Width) : 0 < wd.bits := by cases wd <;> decide

theorem eight_le_bits (wd : Width) : 8 ≤ wd.bits := by cases wd <;> decide

theorem bits_le (wd : Width) : wd.bits ≤ 2048 := by cases wd <;> decide

theorem bits_eq_two_pow (wd : Width) : wd.bits = 2 ^ wd.log2 := by cases wd <;> decide

theorem half_bits (wd h : Width) (hh : wd.half = some h) : wd.bits = h.bits + h.bits := by
  cases wd <;> simp only [Width.half, reduceCtorEq, Option.some.injEq] at hh <;> subst hh <;> rfl

end Sys2Proof.Machine
end

