-- ==== Sys2Proof/Laws/Bytes.lean ====
section
/-! SUPPORT. Byte images (20_memory.md R51): length, one lane, and the two folds undone. -/

namespace Sys2Proof.Machine

variable {w : Nat}

@[simp] theorem bytesOf_length (v : BitVec w) : (bytesOf v).length = w / 8 := by simp [bytesOf]

theorem bytesOf_getD (v : BitVec w) (i : Nat) (h : i < w / 8) : (bytesOf v).getD i 0 = byteLane v i := by
  simp [bytesOf, List.getD_eq_getElem?_getD, h]

theorem byteLane_eq (v : BitVec w) (i : Nat) : byteLane v i = BitVec.ofNat 8 (v.toNat / 2 ^ (8 * i)) := by
  apply BitVec.eq_of_toNat_eq
  simp [byteLane, bitsAt, BitVec.extractLsb'_toNat, Nat.shiftRight_eq_div_pow]

theorem byteLane_getLsbD (v : BitVec w) (i j : Nat) (hj : j < 8) :
    (byteLane v i).getLsbD j = v.getLsbD (8 * i + j) := by
  simp [byteLane, bitsAt, hj]

theorem bytesToNat_lt : ∀ bs : List Byte, bytesToNat bs < 256 ^ bs.length
  | [] => by simp [bytesToNat]
  | b :: bs => by
    have := bytesToNat_lt bs
    have := b.isLt
    simp only [bytesToNat, List.length_cons, Nat.pow_succ]
    omega

end Sys2Proof.Machine
end

