-- ==== Sys2Proof/Laws/Exec.lean ====
section
/-! SUPPORT. What an operation and a step can do, said once: an operation completes with `opResult` of the
latched command, and a step is one of five edges. -/

namespace Sys2Proof.Machine

/-- Every operation completes, with the results of the transaction-level meaning. -/
theorem exec_eq (i : Instr) (s : State) : exec i s = .next (s.withResults (opResult i s.cmd)) := by
  cases i <;> rfl

theorem commandResult_of_decode {w : Nat} {x : Command w} {i : Instr} (h : decode x.op = .ok i) :
    commandResult x = opResult i x := by
  simp only [commandResult, h]

theorem commandResult_of_reject {w : Nat} {x : Command w} {e : Reject} (h : decode x.op = .error e) :
    commandResult x = raiseIllegalOp w := by
  simp only [commandResult, h]

/-- An operation on a state written out. -/
theorem exec_mk (i : Instr) (p : InstanceParams) (r : Regs p.width.bits)
    (ins : List (Inputs p.width.bits)) :
    exec i ⟨p, r, ins⟩ = .next ⟨p, r.complete (opResult i r.latched), ins⟩ := exec_eq i _

variable (p : InstanceParams) (r : Regs p.width.bits) (ins : List (Inputs p.width.bits))

/-- The completion edge writes `F_W` of the latched command. -/
theorem completeEdge_mk :
    completeEdge ⟨p, r, ins⟩ = .next ⟨p, r.complete (commandResult r.latched), ins⟩ := by
  cases h : decode r.opl with
  | ok i => simp only [completeEdge, h, exec_mk, commandResult_of_decode (x := r.latched) h]
  | error e =>
    simp only [completeEdge, h, State.complete_mk, commandResult_of_reject (x := r.latched) h]

variable {p r ins}

theorem step_reset (hr : (State.now ⟨p, r, ins⟩).rst = true) :
    step ⟨p, r, ins⟩ = .next ⟨p, Regs.resetValues p.width.bits, ins.tail⟩ := by
  simp [step, edge, hr]

theorem step_complete (hr : (State.now ⟨p, r, ins⟩).rst = false) (hb : r.busy = true)
    (hc : r.cnt = 0) :
    step ⟨p, r, ins⟩ = .next ⟨p, r.complete (commandResult r.latched), ins.tail⟩ := by
  simp [step, edge, hr, hb, hc, completeEdge_mk]

theorem step_count (hr : (State.now ⟨p, r, ins⟩).rst = false) (hb : r.busy = true)
    (hc : r.cnt ≠ 0) : step ⟨p, r, ins⟩ = .next ⟨p, r.countDown, ins.tail⟩ := by
  simp [step, edge, hr, hb, hc]

theorem step_accept (hr : (State.now ⟨p, r, ins⟩).rst = false) (hb : r.busy = false)
    (hs : (State.now ⟨p, r, ins⟩).start = true) :
    step ⟨p, r, ins⟩ = .next ⟨p, r.accept (State.now ⟨p, r, ins⟩) p.latMax, ins.tail⟩ := by
  simp [step, edge, hr, hb, hs]

theorem step_idle (hr : (State.now ⟨p, r, ins⟩).rst = false) (hb : r.busy = false)
    (hs : (State.now ⟨p, r, ins⟩).start = false) :
    step ⟨p, r, ins⟩ = .next ⟨p, r, ins.tail⟩ := by
  simp [step, edge, hr, hb, hs]

/-- The five edges of 10_state.md R36: a step is one of them, and answers a next state in each. -/
theorem step_cases (p : InstanceParams) (r : Regs p.width.bits) (ins : List (Inputs p.width.bits)) :
    ((State.now ⟨p, r, ins⟩).rst = true ∧
      step ⟨p, r, ins⟩ = .next ⟨p, Regs.resetValues p.width.bits, ins.tail⟩) ∨
    ((State.now ⟨p, r, ins⟩).rst = false ∧ r.busy = true ∧ r.cnt = 0 ∧
      step ⟨p, r, ins⟩ = .next ⟨p, r.complete (commandResult r.latched), ins.tail⟩) ∨
    ((State.now ⟨p, r, ins⟩).rst = false ∧ r.busy = true ∧ r.cnt ≠ 0 ∧
      step ⟨p, r, ins⟩ = .next ⟨p, r.countDown, ins.tail⟩) ∨
    ((State.now ⟨p, r, ins⟩).rst = false ∧ r.busy = false ∧
      (State.now ⟨p, r, ins⟩).start = true ∧
      step ⟨p, r, ins⟩ = .next ⟨p, r.accept (State.now ⟨p, r, ins⟩) p.latMax, ins.tail⟩) ∨
    ((State.now ⟨p, r, ins⟩).rst = false ∧ r.busy = false ∧
      (State.now ⟨p, r, ins⟩).start = false ∧ step ⟨p, r, ins⟩ = .next ⟨p, r, ins.tail⟩) := by
  cases hr : (State.now ⟨p, r, ins⟩).rst
  · cases hb : r.busy
    · cases hs : (State.now ⟨p, r, ins⟩).start
      · simp [step_idle hr hb hs]
      · simp [step_accept hr hb hs]
    · by_cases hc : r.cnt = 0
      · simp [hc, step_complete hr hb hc]
      · simp [hc, step_count hr hb hc]
  · simp [step_reset hr]

/-- The latency a command is counted for: a choice in `[1, LAT_MAX]` is taken as it is. -/
theorem loadCount_of_legal {m l : Nat} (h1 : 1 ≤ l) (h2 : l ≤ m) : Config.loadCount m l = l - 1 := by
  unfold Config.loadCount
  omega

theorem loadCount_lt {m : Nat} (h : 1 ≤ m) (l : Nat) : Config.loadCount m l < m := by
  unfold Config.loadCount
  omega

end Sys2Proof.Machine
end

