-- ==== Sys2Proof/Laws/Host.lean ====
section
/-! SUPPORT. The host's side: the fields of a command under `put`, what values and host variables
read as, the lines no script refuses, runs of edges, and waiting for a completion. -/

namespace Sys2Proof

@[simp] theorem Command.put_op {w : Nat} (x : Command w) (f : Field) (k : Int) : (x.put f k).op = x.op := by
  cases f <;> rfl

theorem Command.get_put_ne {w : Nat} (x : Command w) {f g : Field} (k : Int) (h : f ≠ g) :
    (x.put f k).get g = x.get g := by
  cases f <;> cases g <;> simp_all [Command.put, Command.get]

/-- A field holds the pattern of the integer put on it. -/
theorem Command.get_put_mod {wd : Width} (x : Command wd.bits) (f : Field) (k : Int) :
    ((x.put f k).get f : Int) = k % (2 ^ f.bits wd : Nat) := by
  have h : ∀ n : Nat, ((Machine.bv n k).toNat : Int) = k % (2 ^ n : Nat) := fun n => by
    rw [Machine.bv_eq_ofInt, BitVec.toNat_ofInt]
    exact Int.toNat_of_nonneg (Int.emod_nonneg _ (by positivity))
  cases f <;> exact h _

theorem Command.get_put {wd : Width} (x : Command wd.bits) (f : Field) (k : Nat)
    (h : k < 2 ^ f.bits wd) : (x.put f k).get f = k := by
  have := x.get_put_mod f k
  rw [← Int.natCast_mod, Nat.mod_eq_of_lt h] at this
  exact_mod_cast this

theorem Value.eval_closed {wd : Width} {env : HostEnv} {v : Value} {k : Nat} (h : v.closed wd = some k) :
    v.eval wd env = (k : Int) := by
  cases v <;> simp_all [Value.closed, Value.eval]

/-- What a host variable that holds what is asked of it reads as. -/
theorem readHost_eq {half : Option Nat} {env : HostEnv} {v : String} {sel : Option ResField} {x : HostVal} {k : Int}
    (hv : env.lookup v = some x) (hk : x.read half sel = some k) : readHost half env v sel = k := by
  simp [readHost, hv, hk]

/-- What an element of a host list that has it reads as. -/
theorem readItem_eq {env : HostEnv} {v : String} {x : HostVal} {i k : Int}
    (hv : env.lookup v = some x) (hk : x.item i = some k) : readItem env v i = k := by
  simp [readItem, hv, hk]

namespace Machine

theorem step_ne_refused (s : State) (e : Refusal) : step s ≠ .refused e := by
  obtain ⟨p, r, ins⟩ := s
  rcases step_cases p r ins with ⟨-, h⟩ | ⟨-, -, -, h⟩ | ⟨-, -, -, h⟩ | ⟨-, -, -, h⟩ | ⟨-, -, -, h⟩ <;> simp [h]

theorem waitIdle_ne_refused : ∀ (c : Nat) (s : State) (e : Refusal), waitIdle c s ≠ .refused e
  | 0, s, e => by simp [waitIdle]
  | c + 1, s, e => by
    rw [waitIdle]
    split
    · split
      · exact waitIdle_ne_refused c _ e
      · simp
      · exact absurd ‹_› (step_ne_refused s _)
    · simp

theorem issue_ne_refused (s : State) (x : Command s.inst.width.bits) (lat : Nat) (e : Refusal) :
    issue s x lat ≠ .refused e := by
  unfold issue
  split
  · exact waitIdle_ne_refused _ _ e
  · simp
  · exact absurd ‹_› (step_ne_refused _ _)

theorem issueOn_ne_refused (h : HostState) (s : State) (v : String) (blk : Nat) (c : Written) (e : Refusal) :
    issueOn h s v blk c ≠ .refused e := by
  unfold issueOn
  split
  · simp
  · exact absurd ‹_› (issue_ne_refused _ _ _ _)
  · split <;> simp

theorem jump_ne_refused {ls : List Line} {l : String} (hl : l ∈ scriptLabels ls) (h : HostState) (e : Refusal) :
    h.jump ls l ≠ .refused e := by
  obtain ⟨x, hx, hxl⟩ := List.mem_filterMap.1 hl
  have hx' : x = .label l := by cases x <;> simp_all
  unfold HostState.jump
  split
  · simp
  · rename_i hn
    exact absurd (List.findIdx?_eq_none_iff.1 hn x hx) (by simp [hx'])

/-- A well-formed line of a script is never refused, whatever the host variables hold: an unbound one reads as a
free value (log entry 26). -/
theorem runLine_ne_refused {ls : List Line} {h : HostState} {l : Line}
    (hw : l.wf (h.blocks.map fun s => s.inst.width) (scriptLabels ls) = true) (e : Refusal) :
    runLine ls h l ≠ .refused e := by
  cases l with
  | issue v blk c =>
    cases hb : h.blocks[blk]? with
    | none => simp [Line.wf, hb] at hw
    | some s =>
      simp only [runLine, hb]
      split
      · simp
      · exact absurd ‹_› (waitIdle_ne_refused _ _ _)
      · exact issueOn_ne_refused _ _ _ _ _ _
  | letInt v t => simp [runLine]
  | letList v ts => simp [runLine]
  | fromBytes v blk bs =>
    cases hb : h.blocks[blk]? with
    | none => simp_all [Line.wf]
    | some s =>
      simp only [runLine, hb]
      split <;> simp
  | toBytes v blk t im =>
    cases hb : h.blocks[blk]? with
    | none => simp [Line.wf, hb] at hw
    | some s => simp [runLine, hb]
  | label l => simp [runLine]
  | goto l => exact jump_ne_refused (of_decide_eq_true hw) h e
  | ifGoto c l =>
    simp only [runLine]
    split
    · exact jump_ne_refused (of_decide_eq_true hw) h e
    · simp
  | halt => simp [runLine]

theorem core_run_succ (k : Nat) {s t : State} (h : step s = .next t) :
    core.run (k + 1) s = core.run k t := by
  have hc : core.step s = .next t := h
  simp only [Host.Core.run, hc]

/-- An idle instance is waited for in no edge. -/
theorem settle_idle (p : InstanceParams) (r : Regs p.width.bits) (hb : r.busy = false)
    (ins : List (Inputs p.width.bits)) : settle ⟨p, r, ins⟩ = .next ⟨p, r, []⟩ := by
  simp [settle, waitIdle, hb]

/-- Waiting out a command in flight with idle ports: it completes with `F_W` of its latches. -/
theorem waitIdle_busy (p : InstanceParams) : ∀ (c : Nat) (r : Regs p.width.bits),
    r.busy = true → r.cnt = c →
    ∃ t : Regs p.width.bits, waitIdle (c + 1) ⟨p, r, []⟩ = .next ⟨p, t, []⟩ ∧
      t.busy = false ∧ t.done = true ∧ t.latched = r.latched ∧ t.results = commandResult r.latched
  | 0, r, hb, hc => by
    refine ⟨r.complete (commandResult r.latched), ?_, rfl, rfl, rfl, rfl⟩
    simp only [waitIdle, hb, if_true]
    rw [step_complete rfl hb hc]
    rfl
  | c + 1, r, hb, hc => by
    obtain ⟨t, h1, h2⟩ := waitIdle_busy p c r.countDown hb (by simp [Regs.countDown, hc])
    refine ⟨t, ?_, h2⟩
    rw [waitIdle]
    simp only [hb, if_true]
    rw [step_count rfl hb (by omega)]
    exact h1

end Machine
end Sys2Proof
end

