-- ==== Sys2Proof/Laws/Numbers.lean ====
section
/-! SUPPORT. What the shared computations of the operations give, said once: the double-width result, the
arithmetic shift, the bit scans. -/

namespace Sys2Proof.Machine

variable {w : Nat}

/-- The double-width result is the pattern of the integer in `2W` bits. -/
theorem wideHi_append_wideLo (w : Nat) (i : Int) : wideHi w i ++ wideLo w i = BitVec.ofInt (w + w) i := by
  apply BitVec.eq_of_toNat_eq
  simp only [wideHi, wideLo, bitsAt, BitVec.toNat_append, BitVec.extractLsb'_toNat,
    Nat.shiftRight_eq_div_pow]
  have hb := (bv (2 * w) i).isLt
  rw [show 2 ^ (2 * w) = 2 ^ w * 2 ^ w by rw [← Nat.pow_add]; congr 1; omega] at hb
  rw [Nat.mod_eq_of_lt (Nat.div_lt_of_lt_mul hb), pow_zero, Nat.div_one,
    ← Nat.shiftLeft_add_eq_or_of_lt (Nat.mod_lt _ (Nat.two_pow_pos w)), Nat.shiftLeft_eq,
    Nat.div_add_mod']
  simp [bv, two_mul]

/-- An arithmetic shift right by `k` is the floor of the division by `2^k`. -/
theorem sshiftRight_eq_ofInt (v : BitVec w) (k : Nat) :
    v.sshiftRight k = BitVec.ofInt w (v.toInt / (2 : Int) ^ k) := by
  rw [BitVec.sshiftRight, Int.shiftRight_eq_div_pow]
  norm_cast

theorem zerosBelow_spec (v : BitVec w) : ∀ k,
    zerosBelow v k ≤ k ∧ (∀ j, j < zerosBelow v k → v.getLsbD (k - 1 - j) = false) ∧
    (zerosBelow v k < k → v.getLsbD (k - 1 - zerosBelow v k) = true)
  | 0 => by simp [zerosBelow]
  | k + 1 => by
    obtain ⟨h1, h2, h3⟩ := zerosBelow_spec v k
    rw [zerosBelow]
    split
    · rename_i h
      exact ⟨by omega, by simp, fun _ => by simpa using h⟩
    · rename_i h
      refine ⟨by omega, fun j hj => ?_, fun h' => ?_⟩
      · cases j with
        | zero => simpa using h
        | succ j => rw [show k + 1 - 1 - (j + 1) = k - 1 - j by omega]; exact h2 j (by omega)
      · rw [show k + 1 - 1 - (zerosBelow v k + 1) = k - 1 - zerosBelow v k by omega]
        exact h3 (by omega)

theorem zerosFrom_spec (v : BitVec w) : ∀ k i,
    zerosFrom v i k ≤ k ∧ (∀ j, j < zerosFrom v i k → v.getLsbD (i + j) = false) ∧
    (zerosFrom v i k < k → v.getLsbD (i + zerosFrom v i k) = true)
  | 0, i => by simp [zerosFrom]
  | k + 1, i => by
    obtain ⟨h1, h2, h3⟩ := zerosFrom_spec v k (i + 1)
    rw [zerosFrom]
    split
    · rename_i h
      exact ⟨by omega, by simp, fun _ => by simpa using h⟩
    · rename_i h
      refine ⟨by omega, fun j hj => ?_, fun h' => ?_⟩
      · cases j with
        | zero => simpa using h
        | succ j => rw [show i + (j + 1) = i + 1 + j by omega]; exact h2 j (by omega)
      · rw [show i + (zerosFrom v (i + 1) k + 1) = i + 1 + zerosFrom v (i + 1) k by omega]
        exact h3 (by omega)

theorem onesBelow_spec (v : BitVec w) : ∀ k,
    onesBelow v k ≤ k ∧ onesBelow v k = ((List.range k).filter fun j => v.getLsbD j).length
  | 0 => by simp [onesBelow]
  | k + 1 => by
    obtain ⟨h1, h2⟩ := onesBelow_spec v k
    rw [onesBelow, List.range_succ, List.filter_append]
    constructor
    · split <;> omega
    · simp only [List.length_append, ← h2]
      split <;> simp_all

end Sys2Proof.Machine
end

