-- ==== Sys2Proof/Laws/PerInstr.lean ====
section
/-! SUPPORT. The per-instruction family `OpcodeByte`: what holds of each operation as syntax. -/

namespace Sys2Proof.Laws.OpcodeByte

/-- The opcode of an operation is not reserved and is its family followed by its member (30_encoding.md R70,
R75); the operation exists at every width, but for `PUT_LO` at W = 8 (46_serialization.md R210); its operand
fields and result registers are each named once (R74). -/
def Statement (i : Instr) : Prop :=
  isReserved (encode i) = false ∧
  opcodeFamily (encode i) ++ opcodeMember (encode i) = encode i ∧
  (∀ wd : Width, i.legalAt wd = false ↔ i = .putLo ∧ wd = .w8) ∧
  i.reads.Nodup ∧ i.writes.Nodup

theorem zero : Statement .zero := by
  refine ⟨by decide, by decide, fun wd => ?_, by decide, by decide⟩
  cases wd <;> decide

theorem one : Statement .one := by
  refine ⟨by decide, by decide, fun wd => ?_, by decide, by decide⟩
  cases wd <;> decide

theorem minU : Statement .minU := by
  refine ⟨by decide, by decide, fun wd => ?_, by decide, by decide⟩
  cases wd <;> decide

theorem maxU : Statement .maxU := by
  refine ⟨by decide, by decide, fun wd => ?_, by decide, by decide⟩
  cases wd <;> decide

theorem minS : Statement .minS := by
  refine ⟨by decide, by decide, fun wd => ?_, by decide, by decide⟩
  cases wd <;> decide

theorem maxS : Statement .maxS := by
  refine ⟨by decide, by decide, fun wd => ?_, by decide, by decide⟩
  cases wd <;> decide

theorem fromBool : Statement .fromBool := by
  refine ⟨by decide, by decide, fun wd => ?_, by decide, by decide⟩
  cases wd <;> decide

theorem fromU8 : Statement .fromU8 := by
  refine ⟨by decide, by decide, fun wd => ?_, by decide, by decide⟩
  cases wd <;> decide

theorem fromU16 : Statement .fromU16 := by
  refine ⟨by decide, by decide, fun wd => ?_, by decide, by decide⟩
  cases wd <;> decide

theorem fromU32 : Statement .fromU32 := by
  refine ⟨by decide, by decide, fun wd => ?_, by decide, by decide⟩
  cases wd <;> decide

theorem fromU64 : Statement .fromU64 := by
  refine ⟨by decide, by decide, fun wd => ?_, by decide, by decide⟩
  cases wd <;> decide

theorem fromU128 : Statement .fromU128 := by
  refine ⟨by decide, by decide, fun wd => ?_, by decide, by decide⟩
  cases wd <;> decide

theorem fromI8 : Statement .fromI8 := by
  refine ⟨by decide, by decide, fun wd => ?_, by decide, by decide⟩
  cases wd <;> decide

theorem fromI16 : Statement .fromI16 := by
  refine ⟨by decide, by decide, fun wd => ?_, by decide, by decide⟩
  cases wd <;> decide

theorem fromI32 : Statement .fromI32 := by
  refine ⟨by decide, by decide, fun wd => ?_, by decide, by decide⟩
  cases wd <;> decide

theorem fromI64 : Statement .fromI64 := by
  refine ⟨by decide, by decide, fun wd => ?_, by decide, by decide⟩
  cases wd <;> decide

theorem fromI128 : Statement .fromI128 := by
  refine ⟨by decide, by decide, fun wd => ?_, by decide, by decide⟩
  cases wd <;> decide

theorem fromNarrow : Statement .fromNarrow := by
  refine ⟨by decide, by decide, fun wd => ?_, by decide, by decide⟩
  cases wd <;> decide

theorem toU8 : Statement .toU8 := by
  refine ⟨by decide, by decide, fun wd => ?_, by decide, by decide⟩
  cases wd <;> decide

theorem toU16 : Statement .toU16 := by
  refine ⟨by decide, by decide, fun wd => ?_, by decide, by decide⟩
  cases wd <;> decide

theorem toU32 : Statement .toU32 := by
  refine ⟨by decide, by decide, fun wd => ?_, by decide, by decide⟩
  cases wd <;> decide

theorem toU64 : Statement .toU64 := by
  refine ⟨by decide, by decide, fun wd => ?_, by decide, by decide⟩
  cases wd <;> decide

theorem toU128 : Statement .toU128 := by
  refine ⟨by decide, by decide, fun wd => ?_, by decide, by decide⟩
  cases wd <;> decide

theorem toI8 : Statement .toI8 := by
  refine ⟨by decide, by decide, fun wd => ?_, by decide, by decide⟩
  cases wd <;> decide

theorem toI16 : Statement .toI16 := by
  refine ⟨by decide, by decide, fun wd => ?_, by decide, by decide⟩
  cases wd <;> decide

theorem toI32 : Statement .toI32 := by
  refine ⟨by decide, by decide, fun wd => ?_, by decide, by decide⟩
  cases wd <;> decide

theorem toI64 : Statement .toI64 := by
  refine ⟨by decide, by decide, fun wd => ?_, by decide, by decide⟩
  cases wd <;> decide

theorem toI128 : Statement .toI128 := by
  refine ⟨by decide, by decide, fun wd => ?_, by decide, by decide⟩
  cases wd <;> decide

theorem cmpU : Statement .cmpU := by
  refine ⟨by decide, by decide, fun wd => ?_, by decide, by decide⟩
  cases wd <;> decide

theorem cmpS : Statement .cmpS := by
  refine ⟨by decide, by decide, fun wd => ?_, by decide, by decide⟩
  cases wd <;> decide

theorem eq : Statement .eq := by
  refine ⟨by decide, by decide, fun wd => ?_, by decide, by decide⟩
  cases wd <;> decide

theorem and : Statement .and := by
  refine ⟨by decide, by decide, fun wd => ?_, by decide, by decide⟩
  cases wd <;> decide

theorem or : Statement .or := by
  refine ⟨by decide, by decide, fun wd => ?_, by decide, by decide⟩
  cases wd <;> decide

theorem xor : Statement .xor := by
  refine ⟨by decide, by decide, fun wd => ?_, by decide, by decide⟩
  cases wd <;> decide

theorem not : Statement .not := by
  refine ⟨by decide, by decide, fun wd => ?_, by decide, by decide⟩
  cases wd <;> decide

theorem clz : Statement .clz := by
  refine ⟨by decide, by decide, fun wd => ?_, by decide, by decide⟩
  cases wd <;> decide

theorem ctz : Statement .ctz := by
  refine ⟨by decide, by decide, fun wd => ?_, by decide, by decide⟩
  cases wd <;> decide

theorem cpop : Statement .cpop := by
  refine ⟨by decide, by decide, fun wd => ?_, by decide, by decide⟩
  cases wd <;> decide

theorem bit : Statement .bit := by
  refine ⟨by decide, by decide, fun wd => ?_, by decide, by decide⟩
  cases wd <;> decide

theorem bitSet : Statement .bitSet := by
  refine ⟨by decide, by decide, fun wd => ?_, by decide, by decide⟩
  cases wd <;> decide

theorem bitClr : Statement .bitClr := by
  refine ⟨by decide, by decide, fun wd => ?_, by decide, by decide⟩
  cases wd <;> decide

theorem shl : Statement .shl := by
  refine ⟨by decide, by decide, fun wd => ?_, by decide, by decide⟩
  cases wd <;> decide

theorem shr : Statement .shr := by
  refine ⟨by decide, by decide, fun wd => ?_, by decide, by decide⟩
  cases wd <;> decide

theorem sra : Statement .sra := by
  refine ⟨by decide, by decide, fun wd => ?_, by decide, by decide⟩
  cases wd <;> decide

theorem sext : Statement .sext := by
  refine ⟨by decide, by decide, fun wd => ?_, by decide, by decide⟩
  cases wd <;> decide

theorem zext : Statement .zext := by
  refine ⟨by decide, by decide, fun wd => ?_, by decide, by decide⟩
  cases wd <;> decide

theorem add : Statement .add := by
  refine ⟨by decide, by decide, fun wd => ?_, by decide, by decide⟩
  cases wd <;> decide

theorem sub : Statement .sub := by
  refine ⟨by decide, by decide, fun wd => ?_, by decide, by decide⟩
  cases wd <;> decide

theorem addOvfU : Statement .addOvfU := by
  refine ⟨by decide, by decide, fun wd => ?_, by decide, by decide⟩
  cases wd <;> decide

theorem subOvfU : Statement .subOvfU := by
  refine ⟨by decide, by decide, fun wd => ?_, by decide, by decide⟩
  cases wd <;> decide

theorem addOvfS : Statement .addOvfS := by
  refine ⟨by decide, by decide, fun wd => ?_, by decide, by decide⟩
  cases wd <;> decide

theorem subOvfS : Statement .subOvfS := by
  refine ⟨by decide, by decide, fun wd => ?_, by decide, by decide⟩
  cases wd <;> decide

theorem addSatU : Statement .addSatU := by
  refine ⟨by decide, by decide, fun wd => ?_, by decide, by decide⟩
  cases wd <;> decide

theorem subSatU : Statement .subSatU := by
  refine ⟨by decide, by decide, fun wd => ?_, by decide, by decide⟩
  cases wd <;> decide

theorem addSatS : Statement .addSatS := by
  refine ⟨by decide, by decide, fun wd => ?_, by decide, by decide⟩
  cases wd <;> decide

theorem subSatS : Statement .subSatS := by
  refine ⟨by decide, by decide, fun wd => ?_, by decide, by decide⟩
  cases wd <;> decide

theorem addWideU : Statement .addWideU := by
  refine ⟨by decide, by decide, fun wd => ?_, by decide, by decide⟩
  cases wd <;> decide

theorem subWideU : Statement .subWideU := by
  refine ⟨by decide, by decide, fun wd => ?_, by decide, by decide⟩
  cases wd <;> decide

theorem addWideS : Statement .addWideS := by
  refine ⟨by decide, by decide, fun wd => ?_, by decide, by decide⟩
  cases wd <;> decide

theorem subWideS : Statement .subWideS := by
  refine ⟨by decide, by decide, fun wd => ?_, by decide, by decide⟩
  cases wd <;> decide

theorem avgAddU : Statement .avgAddU := by
  refine ⟨by decide, by decide, fun wd => ?_, by decide, by decide⟩
  cases wd <;> decide

theorem avgSubU : Statement .avgSubU := by
  refine ⟨by decide, by decide, fun wd => ?_, by decide, by decide⟩
  cases wd <;> decide

theorem avgAddS : Statement .avgAddS := by
  refine ⟨by decide, by decide, fun wd => ?_, by decide, by decide⟩
  cases wd <;> decide

theorem avgSubS : Statement .avgSubS := by
  refine ⟨by decide, by decide, fun wd => ?_, by decide, by decide⟩
  cases wd <;> decide

theorem mul : Statement .mul := by
  refine ⟨by decide, by decide, fun wd => ?_, by decide, by decide⟩
  cases wd <;> decide

theorem mulWideU : Statement .mulWideU := by
  refine ⟨by decide, by decide, fun wd => ?_, by decide, by decide⟩
  cases wd <;> decide

theorem mulWideS : Statement .mulWideS := by
  refine ⟨by decide, by decide, fun wd => ?_, by decide, by decide⟩
  cases wd <;> decide

theorem mulWideSU : Statement .mulWideSU := by
  refine ⟨by decide, by decide, fun wd => ?_, by decide, by decide⟩
  cases wd <;> decide

theorem mulOvfU : Statement .mulOvfU := by
  refine ⟨by decide, by decide, fun wd => ?_, by decide, by decide⟩
  cases wd <;> decide

theorem mulOvfS : Statement .mulOvfS := by
  refine ⟨by decide, by decide, fun wd => ?_, by decide, by decide⟩
  cases wd <;> decide

theorem divU : Statement .divU := by
  refine ⟨by decide, by decide, fun wd => ?_, by decide, by decide⟩
  cases wd <;> decide

theorem divS : Statement .divS := by
  refine ⟨by decide, by decide, fun wd => ?_, by decide, by decide⟩
  cases wd <;> decide

theorem remU : Statement .remU := by
  refine ⟨by decide, by decide, fun wd => ?_, by decide, by decide⟩
  cases wd <;> decide

theorem remS : Statement .remS := by
  refine ⟨by decide, by decide, fun wd => ?_, by decide, by decide⟩
  cases wd <;> decide

theorem putLo : Statement .putLo := by
  refine ⟨by decide, by decide, fun wd => ?_, by decide, by decide⟩
  cases wd <;> decide

theorem loSext : Statement .loSext := by
  refine ⟨by decide, by decide, fun wd => ?_, by decide, by decide⟩
  cases wd <;> decide

end Sys2Proof.Laws.OpcodeByte
end

