-- ==== Sys2Proof/Tests/Slice0.lean ====
section
/-! SUPPORT. The model's own tests. Every expected value is one the spec writes (95_test_vectors.md, an example of
a rule, the opcode map) or is worked out by hand from the rule the comment names. -/

namespace Sys2Proof.Tests

open Sys2Proof.Machine

/-! ### Helpers -/

/-- An instance of width `wd` with registers `r`, with the edges `ins` to come; `LAT_MAX` is 4. -/
def inst (wd : Width) (r : Regs wd.bits) (ins : List (Inputs wd.bits)) : State :=
  { inst := ⟨wd, 4⟩, regs := r, inputs := ins }

/-- A command in flight whose completion edge is next; the result registers hold other values before it. -/
def inFlight (wd : Width) (op a b n s : Nat) : Regs wd.bits :=
  { busy := true, done := false
    opl := BitVec.ofNat _ op, al := BitVec.ofNat _ a, bl := BitVec.ofNat _ b
    nl := BitVec.ofNat _ n, sl := BitVec.ofNat _ s
    rLo := 0x5A, rHi := 0x3C, flag := true, rs := 0x77, err := 2, cnt := 0 }

/-- `R_LO`, `R_HI`, `FLAG`, `RS`, `ERR` after the completion edge of a command. -/
def after (wd : Width) (op a b n s : Nat) : Option (Nat × Nat × Bool × Nat × Nat) :=
  match step (inst wd (inFlight wd op a b n s) []) with
  | .next t =>
    if t.regs.done && !t.regs.busy then
      some (t.regs.rLo.toNat, t.regs.rHi.toNat, t.regs.flag, t.regs.rs.toNat, t.regs.err.toNat)
    else none
  | .fault _ => none
  | .refused _ => none

/-- `BUSY`, `DONE`, `OPL`, `AL`, `R_LO`, `CNT` after one edge. -/
def seen (s : State) : Option (Bool × Bool × Nat × Nat × Nat × Nat) :=
  match step s with
  | .next t =>
    some (t.regs.busy, t.regs.done, t.regs.opl.toNat, t.regs.al.toNat, t.regs.rLo.toNat, t.regs.cnt)
  | .fault _ => none
  | .refused _ => none

/-- The reset values at W = 8. -/
def reset8 : Regs 8 := Regs.resetValues 8

/-! ### Well-formedness: each check refuses an ill-formed term -/

/-- 00_scope.md R5: `LAT_MAX` is at least 1. -/
theorem test_wf_latMax : InstanceParams.wf ⟨.w8, 0⟩ = false ∧ InstanceParams.wf ⟨.w8, 1⟩ = true := by decide

/-- 46_serialization.md R210: no `PUT_LO` at W = 8. -/
theorem test_wf_putLo : Instr.legalAt .putLo .w8 = false ∧ Instr.legalAt .putLo .w16 = true := by decide

theorem test_wf_fits :
    Value.fits .w8 .a (.num 256) = false ∧ Value.fits .w8 .a (.num 255) = true ∧
    Value.fits .w8 .n (.num (2 ^ 32)) = false ∧ Value.fits .w8 .s (.limbs [0, 0, 1]) = false := by
  decide

theorem test_wf_fieldsOnce :
    Written.wf .w8 ⟨.mnemonic .not, [(.a, .num 1), (.a, .num 2)]⟩ = false ∧
    Written.wf .w8 ⟨.mnemonic .not, [(.a, .num 1)]⟩ = true := by
  decide

/-- 30_encoding.md R78: only a field the operation does not read may be left out. -/
theorem test_wf_readsGiven :
    Written.wf .w8 ⟨.mnemonic .add, [(.a, .num 1)]⟩ = false ∧
    Written.wf .w8 ⟨.mnemonic .add, [(.a, .num 1), (.b, .num 1)]⟩ = true := by
  decide

/-- 95_test_vectors.md VL2: `PUT_LO` may be written at W = 8. -/
theorem test_wf_putLo_written : Written.wf .w8 ⟨.mnemonic .putLo, [(.a, .num 0xAB)]⟩ = true := by decide

theorem test_wf_literal : Written.wf .w8 ⟨.mnemonic .not, [(.a, .num 300)]⟩ = false := by decide

/-- 30_encoding.md R80: `1 <= k <= W`. -/
theorem test_wf_pseudo :
    Pseudo.wf .w8 (.sextFrom (.num 1) 0) = false ∧ Pseudo.wf .w8 (.zextFrom (.num 1) 9) = false ∧
    Pseudo.wf .w8 (.sextFrom (.num 1) 8) = true ∧ Pseudo.wf .w8 (.neg (.num 256)) = false ∧
    Pseudo.wf .w8 (.mulhu (.num 1) (.num 256)) = false ∧ Pseudo.wf .w8 (.tst (.num 1) (.num (2 ^ 32))) = false := by
  decide

theorem test_wf_line :
    Line.wf [.w8] [] (.goto "END") = false ∧ Line.wf [.w8] [] (.ifGoto (.eq (.num 0) (.num 0)) "END") = false ∧
    Line.wf [.w8] [] (.issue "v" 1 ⟨.mnemonic .one, []⟩) = false ∧ Line.wf [.w8] [] (.fromBytes "v" 1 []) = false ∧
    Line.wf [.w8] [] (.toBytes "v" 1 (.num 0) .whole) = false ∧
    Line.wf [.w8] [] (.issue "v" 0 ⟨.mnemonic .putLo, []⟩) = false := by
  decide

/-- 90_conflicts.md C8: the low half has no byte image at W = 8. -/
theorem test_wf_image :
    Line.wf [.w8] [] (.toBytes "v" 0 (.num 0) .lowHalf) = false ∧
    Line.wf [.w16] [] (.toBytes "v" 0 (.num 0) .lowHalf) = true := by
  decide

theorem test_wf_script :
    scriptWf [.w8] [.label "L", .label "L"] = false ∧ scriptWf [.w8] [.goto "L"] = false ∧
    scriptWf [.w8] [.label "L", .goto "L"] = true := by
  decide

/-! ### Decoding: every row of the opcode map, its byte written out -/

/-- Family `0` of 30_encoding.md R74. -/
theorem test_decode_constants :
    decode 0b00000001 = .ok .zero ∧ decode 0b00000010 = .ok .one ∧ decode 0b00000011 = .ok .minU ∧
    decode 0b00000100 = .ok .maxU ∧ decode 0b00000101 = .ok .minS ∧ decode 0b00000110 = .ok .maxS := by
  decide

/-- Family `1` of 30_encoding.md R74. -/
theorem test_decode_conversions_in :
    decode 0b00010000 = .ok .fromBool ∧ decode 0b00010001 = .ok .fromU8 ∧ decode 0b00010010 = .ok .fromU16 ∧
    decode 0b00010011 = .ok .fromU32 ∧ decode 0b00010100 = .ok .fromU64 ∧ decode 0b00010101 = .ok .fromU128 ∧
    decode 0b00011001 = .ok .fromI8 ∧ decode 0b00011010 = .ok .fromI16 ∧ decode 0b00011011 = .ok .fromI32 ∧
    decode 0b00011100 = .ok .fromI64 ∧ decode 0b00011101 = .ok .fromI128 ∧ decode 0b00011111 = .ok .fromNarrow := by
  decide

/-- Family `2` of 30_encoding.md R74. -/
theorem test_decode_conversions_out :
    decode 0b00100001 = .ok .toU8 ∧ decode 0b00100010 = .ok .toU16 ∧ decode 0b00100011 = .ok .toU32 ∧
    decode 0b00100100 = .ok .toU64 ∧ decode 0b00100101 = .ok .toU128 ∧ decode 0b00101001 = .ok .toI8 ∧
    decode 0b00101010 = .ok .toI16 ∧ decode 0b00101011 = .ok .toI32 ∧ decode 0b00101100 = .ok .toI64 ∧
    decode 0b00101101 = .ok .toI128 := by
  decide

/-- Family `3` of 30_encoding.md R74. -/
theorem test_decode_comparison :
    decode 0b00110000 = .ok .cmpU ∧ decode 0b00110001 = .ok .cmpS ∧ decode 0b00110010 = .ok .eq := by
  decide

/-- Family `4` of 30_encoding.md R74. -/
theorem test_decode_bitwise :
    decode 0b01000000 = .ok .and ∧ decode 0b01000001 = .ok .or ∧ decode 0b01000010 = .ok .xor ∧
    decode 0b01000011 = .ok .not ∧ decode 0b01000100 = .ok .clz ∧ decode 0b01000101 = .ok .ctz ∧
    decode 0b01000110 = .ok .cpop ∧ decode 0b01000111 = .ok .bit ∧ decode 0b01001000 = .ok .bitSet ∧
    decode 0b01001001 = .ok .bitClr := by
  decide

/-- Family `5` of 30_encoding.md R74. -/
theorem test_decode_shifts :
    decode 0b01010000 = .ok .shl ∧ decode 0b01010001 = .ok .shr ∧ decode 0b01010010 = .ok .sra ∧
    decode 0b01010011 = .ok .sext ∧ decode 0b01010100 = .ok .zext := by
  decide

/-- Family `6` of 30_encoding.md R74. -/
theorem test_decode_add_sub :
    decode 0b01100000 = .ok .add ∧ decode 0b01100001 = .ok .sub ∧ decode 0b01100010 = .ok .addOvfU ∧
    decode 0b01100011 = .ok .subOvfU ∧ decode 0b01100100 = .ok .addOvfS ∧ decode 0b01100101 = .ok .subOvfS ∧
    decode 0b01100110 = .ok .addSatU ∧ decode 0b01100111 = .ok .subSatU ∧ decode 0b01101000 = .ok .addSatS ∧
    decode 0b01101001 = .ok .subSatS ∧ decode 0b01101010 = .ok .addWideU ∧ decode 0b01101011 = .ok .subWideU ∧
    decode 0b01101100 = .ok .addWideS ∧ decode 0b01101101 = .ok .subWideS := by
  decide

/-- Family `7` of 30_encoding.md R74. -/
theorem test_decode_averaging :
    decode 0b01110000 = .ok .avgAddU ∧ decode 0b01110001 = .ok .avgSubU ∧ decode 0b01110010 = .ok .avgAddS ∧
    decode 0b01110011 = .ok .avgSubS := by
  decide

/-- Family `8` of 30_encoding.md R74. -/
theorem test_decode_multiply :
    decode 0b10000000 = .ok .mul ∧ decode 0b10000001 = .ok .mulWideU ∧ decode 0b10000010 = .ok .mulWideS ∧
    decode 0b10000011 = .ok .mulWideSU ∧ decode 0b10000100 = .ok .mulOvfU ∧ decode 0b10000101 = .ok .mulOvfS := by
  decide

/-- Family `9` of 30_encoding.md R74. -/
theorem test_decode_divide :
    decode 0b10010000 = .ok .divU ∧ decode 0b10010001 = .ok .divS ∧ decode 0b10010010 = .ok .remU ∧
    decode 0b10010011 = .ok .remS := by
  decide

/-- Family `A` of 30_encoding.md R74. -/
theorem test_decode_low_half :
    decode 0b10100000 = .ok .putLo ∧ decode 0b10100001 = .ok .loSext := by
  decide

/-- 30_encoding.md R75: the ends of some ranges of reserved opcodes. -/
theorem test_decode_reserved :
    decode 0x00 = .error (.reservedOpcode 0x00) ∧ decode 0x07 = .error (.reservedOpcode 0x07) ∧
    decode 0x1E = .error (.reservedOpcode 0x1E) ∧ decode 0x20 = .error (.reservedOpcode 0x20) ∧
    decode 0xA2 = .error (.reservedOpcode 0xA2) ∧ decode 0xFF = .error (.reservedOpcode 0xFF) := by
  decide

theorem test_decodeTableWord :
    decodeTableWord 8 0x60 = some .add ∧ decodeTableWord 8 0xA1 = some .loSext ∧ decodeTableWord 8 0x33 = none := by
  decide

/-- The host's placement of a word is run by the very next step. -/
theorem test_withFetchWord :
    (match step (State.reset.withFetchWord 8 0x06) with
      | .next t => some (t.regs.rLo.toNat, t.regs.done)
      | _ => none) = some (2 ^ 255 - 1, true) := by
  decide

/-- 30_encoding.md R78: a written command with a limb list and a constant; a field left out is zero. -/
theorem test_assemble :
    assemble .w128 [] ⟨.mnemonic .add, [(.b, .const .minS), (.a, .limbs [0x1, 0x2])]⟩ =
      { op := 0x60, a := 0x20000000000000001, b := 0x80000000000000000000000000000000 } := by
  decide

/-- 95_test_vectors.md P5, `DIV_S a=0x80, b=D[k]` at `k = 3`. -/
theorem test_assemble_item :
    assemble .w8 [("k", .int 3), ("D", .list [0x00, 0xFF, 0x02, 0x80])]
      ⟨.mnemonic .divS, [(.a, .num 0x80), (.b, .item "D" (.host "k" none))]⟩ = { op := 0x91, a := 0x80, b := 0x80 } := by
  decide

/-- 95_test_vectors.md P4: `X.lo` and `X.hi` at W = 128 are the halves of a 256-bit integer. -/
theorem test_assemble_half :
    let env : HostEnv := [("X", .int (2 ^ 128 + (2 ^ 128 - 1)))]
    assemble .w128 env ⟨.mnemonic .addOvfU, [(.a, .host "X" (some .lo)), (.b, .num 1)]⟩ =
      { op := 0x62, a := BitVec.ofNat _ (2 ^ 128 - 1), b := 1 } ∧
    assemble .w128 env ⟨.mnemonic .add, [(.a, .host "X" (some .hi)), (.b, .num 0)]⟩ = { op := 0x60, a := 1 } := by
  decide +kernel

/-- 30_encoding.md R80: `NEG 1` is -1; the signed by unsigned high half of -128 times 255 (VM6). -/
theorem test_pseudo :
    commandResult (assemble .w8 [] (Pseudo.neg (.num 1)).expand) = { lo := 0xFF } ∧
    commandResult (assemble .w8 [] (Pseudo.mulhsu (.num 0x80) (.num 0xFF)).expand) = { lo := 0x80, hi := 0x80 } := by
  decide

/-! ### Every operation: the vectors of 95_test_vectors.md, or the example of the rule -/

/-- VC1. -/
theorem test_zero :
    after .w8 0x01 0 0 0 0 = some (0x00, 0x00, false, 0x0, 0) := by
  decide

/-- VC2. -/
theorem test_one :
    after .w8 0x02 0 0 0 0 = some (0x01, 0x00, false, 0x0, 0) := by
  decide

/-- VC3. -/
theorem test_minU :
    after .w8 0x03 0 0 0 0 = some (0x00, 0x00, false, 0x0, 0) := by
  decide

/-- VC4. -/
theorem test_maxU :
    after .w8 0x04 0 0 0 0 = some (0xFF, 0x00, false, 0x0, 0) := by
  decide

/-- VC5, VC13. -/
theorem test_minS :
    after .w8 0x05 0 0 0 0 = some (0x80, 0x00, false, 0x0, 0) ∧
    after .w256 0x05 0 0 0 0 = some ((2 ^ 255), 0, false, 0x0, 0) := by
  decide +kernel

/-- VC6. -/
theorem test_maxS :
    after .w8 0x06 0 0 0 0 = some (0x7F, 0x00, false, 0x0, 0) := by
  decide

/-- VF1, VF2. -/
theorem test_fromBool :
    after .w8 0x10 0 0 0 0x1 = some (0x01, 0x00, false, 0x0, 0) ∧
    after .w8 0x10 0 0 0 0xFE = some (0x00, 0x00, false, 0x0, 0) := by
  decide

/-- VF3. -/
theorem test_fromU8 :
    after .w64 0x11 0 0 0 0x1FF = some (0x00000000000000FF, 0x0000000000000000, false, 0x0, 0) := by
  decide

/-- R109. -/
theorem test_fromU16 :
    after .w8 0x12 0 0 0 0x1234 = some (0x34, 0, false, 0, 0) := by
  decide

/-- VF9. -/
theorem test_fromU32 :
    after .w64 0x13 0 0 0 0x80000000 = some (0x0000000080000000, 0x0000000000000000, false, 0x0, 0) := by
  decide

/-- VF11. -/
theorem test_fromU64 :
    after .w256 0x14 0 0 0 0x8000000000000000 = some (0x8000000000000000, 0, false, 0x0, 0) := by
  decide +kernel

/-- VF6. -/
theorem test_fromU128 :
    after .w8 0x15 0 0 0 0x800000000000000000000000000000AB = some (0xAB, 0x00, false, 0x0, 0) := by
  decide

/-- VF4. -/
theorem test_fromI8 :
    after .w64 0x19 0 0 0 0x80 = some (0xFFFFFFFFFFFFFF80, 0x0000000000000000, false, 0x0, 0) := by
  decide

/-- R114. -/
theorem test_fromI16 :
    after .w64 0x1A 0 0 0 0xFFFE = some (0xFFFFFFFFFFFFFFFE, 0, false, 0, 0) := by
  decide

/-- VF8. -/
theorem test_fromI32 :
    after .w64 0x1B 0 0 0 0x80000000 = some (0xFFFFFFFF80000000, 0x0000000000000000, false, 0x0, 0) := by
  decide

/-- VF10. -/
theorem test_fromI64 :
    after .w256 0x1C 0 0 0 0x8000000000000000 = some ((2 ^ 256 - 0x8000000000000000), 0, false, 0x0, 0) := by
  decide +kernel

/-- VF7, VF12. -/
theorem test_fromI128 :
    after .w8 0x1D 0 0 0 0x8000000000000000000000000000007F = some (0x7F, 0x00, false, 0x0, 0) ∧
    after .w256 0x1D 0 0 0 0xFFFFFFFFFFFFFFFFFFFFFFFFFFFFFFFF = some ((2 ^ 256 - 1), 0, false, 0x0, 0) := by
  decide +kernel

/-- VF19, VF17. -/
theorem test_fromNarrow :
    after .w16 0x1F 0xABCD 0 8 0 = some (0x00CD, 0x0000, false, 0x0, 0) ∧
    after .w256 0x1F (2 ^ 256 - 1) 0 100 0 = some (0, 0, false, 0x0, 2) := by
  decide +kernel

/-- VF28. -/
theorem test_toU8 :
    after .w16 0x21 0x1234 0 0 0 = some (0x0000, 0x0000, false, 0x34, 0) := by
  decide

/-- R120. -/
theorem test_toU16 :
    after .w8 0x22 0x80 0 0 0 = some (0, 0, false, 0x0080, 0) := by
  decide

/-- R121. -/
theorem test_toU32 :
    after .w64 0x23 0x1122334455667788 0 0 0 = some (0, 0, false, 0x55667788, 0) := by
  decide

/-- VF22. -/
theorem test_toU64 :
    after .w8 0x24 0x80 0 0 0 = some (0x00, 0x00, false, 0x80, 0) := by
  decide

/-- VF25. -/
theorem test_toU128 :
    after .w256 0x25 (2 ^ 256 - 1) 0 0 0 = some (0, 0, false, 0xFFFFFFFFFFFFFFFFFFFFFFFFFFFFFFFF, 0) := by
  decide +kernel

/-- R124. -/
theorem test_toI8 :
    after .w16 0x29 0xFF80 0 0 0 = some (0, 0, false, 0x80, 0) := by
  decide

/-- R125. -/
theorem test_toI16 :
    after .w8 0x2A 0x80 0 0 0 = some (0, 0, false, 0xFF80, 0) := by
  decide

/-- R126. -/
theorem test_toI32 :
    after .w16 0x2B 0x8001 0 0 0 = some (0, 0, false, 0xFFFF8001, 0) := by
  decide

/-- VF23. -/
theorem test_toI64 :
    after .w8 0x2C 0x80 0 0 0 = some (0x00, 0x00, false, 0xFFFFFFFFFFFFFF80, 0) := by
  decide

/-- VF27, R128. -/
theorem test_toI128 :
    after .w128 0x2D (2 ^ 127) 0 0 0 = some (0, 0, false, 0x80000000000000000000000000000000, 0) ∧
    after .w64 0x2D 0x8000000000000000 0 0 0 = some (0, 0, false, 0xFFFFFFFFFFFFFFFF8000000000000000, 0) := by
  decide +kernel

/-- VK5, VK7. -/
theorem test_cmpU :
    after .w8 0x30 0xFE 0xFF 0 0 = some (0xFF, 0x00, false, 0x0, 0) ∧
    after .w256 0x30 (2 ^ 128) (2 ^ 128 - 1) 0 0 = some (0x1, 0, false, 0x0, 0) := by
  decide +kernel

/-- VK2, VK9. -/
theorem test_cmpS :
    after .w8 0x31 0x80 0x7F 0 0 = some (0xFF, 0x00, false, 0x0, 0) ∧
    after .w256 0x31 (2 ^ 256 - 1) (2 ^ 255) 0 0 = some (0x1, 0, false, 0x0, 0) := by
  decide +kernel

/-- VK10, VK11. -/
theorem test_eq :
    after .w256 0x32 (2 ^ 128) (2 ^ 128) 0 0 = some (0x1, 0, true, 0x0, 0) ∧
    after .w256 0x32 (2 ^ 128) 0x1 0 0 = some (0, 0, false, 0x0, 0) := by
  decide +kernel

/-- VB1. -/
theorem test_and :
    after .w8 0x40 0xF0 0x3C 0 0 = some (0x30, 0x00, false, 0x0, 0) := by
  decide

/-- VB2. -/
theorem test_or :
    after .w8 0x41 0xF0 0x3C 0 0 = some (0xFC, 0x00, false, 0x0, 0) := by
  decide

/-- VB3. -/
theorem test_xor :
    after .w8 0x42 0xF0 0xF0 0 0 = some (0x00, 0x00, false, 0x0, 0) := by
  decide

/-- VB4. -/
theorem test_not :
    after .w8 0x43 0x80 0 0 0 = some (0x7F, 0x00, false, 0x0, 0) := by
  decide

/-- VB7, VB14. -/
theorem test_clz :
    after .w8 0x44 0x01 0 0 0 = some (0x07, 0x00, false, 0x0, 0) ∧
    after .w256 0x44 (2 ^ 128) 0 0 0 = some (0x7F, 0, false, 0x0, 0) := by
  decide +kernel

/-- VB10, VB16. -/
theorem test_ctz :
    after .w8 0x45 0x80 0 0 0 = some (0x07, 0x00, false, 0x0, 0) ∧
    after .w256 0x45 0 0 0 0 = some (0x100, 0, false, 0x0, 0) := by
  decide +kernel

/-- VB11. -/
theorem test_cpop :
    after .w8 0x46 0xFF 0 0 0 = some (0x08, 0x00, false, 0x0, 0) := by
  decide

/-- VB21, VB23. -/
theorem test_bit :
    after .w8 0x47 0x01 0 1 0 = some (0x00, 0x00, false, 0x0, 0) ∧
    after .w256 0x47 (2 ^ 200) 0 456 0 = some (0x1, 0, true, 0x0, 0) := by
  decide +kernel

/-- VB25, VB26. -/
theorem test_bitSet :
    after .w8 0x48 0x00 0 4294967295 0 = some (0x80, 0x00, false, 0x0, 0) ∧
    after .w256 0x48 0 0 130 0 = some ((2 ^ 130), 0, false, 0x0, 0) := by
  decide +kernel

/-- VB27, VB28. -/
theorem test_bitClr :
    after .w8 0x49 0xFF 0 0 0 = some (0xFE, 0x00, false, 0x0, 0) ∧
    after .w8 0x49 0x00 0 3 0 = some (0x00, 0x00, false, 0x0, 0) := by
  decide

/-- VS4, VS9. -/
theorem test_shl :
    after .w8 0x50 0x81 0 4294967295 0 = some (0x80, 0x00, false, 0x0, 0) ∧
    after .w256 0x50 0x1 0 128 0 = some ((2 ^ 128), 0, false, 0x0, 0) := by
  decide +kernel

/-- VS5, VS11. -/
theorem test_shr :
    after .w8 0x51 0x81 0 7 0 = some (0x01, 0x00, false, 0x0, 0) ∧
    after .w256 0x51 (2 ^ 128) 0 1 0 = some ((2 ^ 127), 0, false, 0x0, 0) := by
  decide +kernel

/-- VS8, VS12. -/
theorem test_sra :
    after .w8 0x52 0x80 0 9 0 = some (0xC0, 0x00, false, 0x0, 0) ∧
    after .w256 0x52 (2 ^ 255) 0 128 0 = some ((2 ^ 256 - 2 ^ 127), 0, false, 0x0, 0) := by
  decide +kernel

/-- VS21, VS24. -/
theorem test_sext :
    after .w8 0x53 0x08 0 11 0 = some (0xF8, 0x00, false, 0x0, 0) ∧
    after .w256 0x53 (2 ^ 127) 0 127 0 = some ((2 ^ 256 - 2 ^ 127), 0, false, 0x0, 0) := by
  decide +kernel

/-- VS22, VS25. -/
theorem test_zext :
    after .w8 0x54 0xFF 0 3 0 = some (0x0F, 0x00, false, 0x0, 0) ∧
    after .w256 0x54 (2 ^ 256 - 1) 0 127 0 = some ((2 ^ 128 - 1), 0, false, 0x0, 0) := by
  decide +kernel

/-- VA1, VA3. -/
theorem test_add :
    after .w8 0x60 0xFF 0x01 0 0 = some (0x00, 0x00, false, 0x0, 0) ∧
    after .w256 0x60 (2 ^ 128 - 1) 0x1 0 0 = some ((2 ^ 128), 0, false, 0x0, 0) := by
  decide +kernel

/-- VA2, VA5. -/
theorem test_sub :
    after .w8 0x61 0x00 0x01 0 0 = some (0xFF, 0x00, false, 0x0, 0) ∧
    after .w256 0x61 (2 ^ 128) 0x1 0 0 = some ((2 ^ 128 - 1), 0, false, 0x0, 0) := by
  decide +kernel

/-- VA7, VA14. -/
theorem test_addOvfU :
    after .w8 0x62 0x80 0x80 0 0 = some (0x00, 0x00, true, 0x0, 0) ∧
    after .w256 0x62 (2 ^ 256 - 1) (2 ^ 256 - 1) 0 0 = some ((2 ^ 256 - 0x2), 0, true, 0x0, 0) := by
  decide +kernel

/-- VA8, VA15. -/
theorem test_subOvfU :
    after .w8 0x63 0x00 0x00 0 0 = some (0x00, 0x00, false, 0x0, 0) ∧
    after .w256 0x63 (2 ^ 128) 0x100000000000000000000000000000001 0 0 = some ((2 ^ 256 - 1), 0, true, 0x0, 0) := by
  decide +kernel

/-- VA9, VA10. -/
theorem test_addOvfS :
    after .w8 0x64 0x80 0x80 0 0 = some (0x00, 0x00, true, 0x0, 0) ∧
    after .w8 0x64 0x7F 0x80 0 0 = some (0xFF, 0x00, false, 0x0, 0) := by
  decide

/-- VA11, VA12. -/
theorem test_subOvfS :
    after .w8 0x65 0x7F 0xFF 0 0 = some (0x80, 0x00, true, 0x0, 0) ∧
    after .w8 0x65 0xFF 0x7F 0 0 = some (0x80, 0x00, false, 0x0, 0) := by
  decide

/-- VA17. -/
theorem test_addSatU :
    after .w8 0x66 0xFF 0xFF 0 0 = some (0xFF, 0x00, true, 0x0, 0) := by
  decide

/-- VA18, VA19. -/
theorem test_subSatU :
    after .w8 0x67 0x01 0x01 0 0 = some (0x00, 0x00, false, 0x0, 0) ∧
    after .w8 0x67 0x01 0x02 0 0 = some (0x00, 0x00, true, 0x0, 0) := by
  decide

/-- VA20, VA21. -/
theorem test_addSatS :
    after .w8 0x68 0x80 0x80 0 0 = some (0x80, 0x00, true, 0x0, 0) ∧
    after .w8 0x68 0x40 0x40 0 0 = some (0x7F, 0x00, true, 0x0, 0) := by
  decide

/-- VA23, VA24. -/
theorem test_subSatS :
    after .w8 0x69 0x7F 0x80 0 0 = some (0x7F, 0x00, true, 0x0, 0) ∧
    after .w8 0x69 0xFE 0x7F 0 0 = some (0x80, 0x00, true, 0x0, 0) := by
  decide

/-- VA26, VA30. -/
theorem test_addWideU :
    after .w8 0x6A 0x80 0x80 0 0 = some (0x00, 0x01, false, 0x0, 0) ∧
    after .w256 0x6A (2 ^ 256 - 1) 0x1 0 0 = some (0, 0x1, false, 0x0, 0) := by
  decide +kernel

/-- VA27. -/
theorem test_subWideU :
    after .w8 0x6B 0x00 0x80 0 0 = some (0x80, 0xFF, false, 0x0, 0) := by
  decide

/-- VA28. -/
theorem test_addWideS :
    after .w8 0x6C 0xFF 0xFF 0 0 = some (0xFE, 0xFF, false, 0x0, 0) := by
  decide

/-- VA29, VA31. -/
theorem test_subWideS :
    after .w8 0x6D 0x7F 0x80 0 0 = some (0xFF, 0x00, false, 0x0, 0) ∧
    after .w256 0x6D (2 ^ 255) 0x1 0 0 = some ((2 ^ 255 - 1), (2 ^ 256 - 1), false, 0x0, 0) := by
  decide +kernel

/-- VA32. -/
theorem test_avgAddU :
    after .w8 0x70 0xFF 0xFE 0 0 = some (0xFE, 0x00, false, 0x0, 0) := by
  decide

/-- VA33. -/
theorem test_avgSubU :
    after .w8 0x71 0x02 0x05 0 0 = some (0xFE, 0x00, false, 0x0, 0) := by
  decide

/-- VA34. -/
theorem test_avgAddS :
    after .w8 0x72 0xFF 0xFE 0 0 = some (0xFE, 0x00, false, 0x0, 0) := by
  decide

/-- VA36. -/
theorem test_avgSubS :
    after .w8 0x73 0x7F 0x80 0 0 = some (0x7F, 0x00, false, 0x0, 0) := by
  decide

/-- VM1. -/
theorem test_mul :
    after .w8 0x80 0xFF 0xFF 0 0 = some (0x01, 0x00, false, 0x0, 0) := by
  decide

/-- VM3, VM16. -/
theorem test_mulWideU :
    after .w8 0x81 0xFF 0xFF 0 0 = some (0x01, 0xFE, false, 0x0, 0) ∧
    after .w128 0x81 (2 ^ 128 - 1) (2 ^ 128 - 1) 0 0 = some (0x1, (2 ^ 128 - 0x2), false, 0x0, 0) := by
  decide +kernel

/-- VM5, VM17. -/
theorem test_mulWideS :
    after .w8 0x82 0x80 0x7F 0 0 = some (0x80, 0xC0, false, 0x0, 0) ∧
    after .w256 0x82 (2 ^ 256 - 1) (2 ^ 256 - 1) 0 0 = some (0x1, 0, false, 0x0, 0) := by
  decide +kernel

/-- VM6, VM18. -/
theorem test_mulWideSU :
    after .w8 0x83 0x80 0xFF 0 0 = some (0x80, 0x80, false, 0x0, 0) ∧
    after .w256 0x83 (2 ^ 256 - 1) (2 ^ 256 - 1) 0 0 = some (0x1, (2 ^ 256 - 1), false, 0x0, 0) := by
  decide +kernel

/-- VM9, VM19. -/
theorem test_mulOvfU :
    after .w8 0x84 0x10 0x10 0 0 = some (0x00, 0x00, true, 0x0, 0) ∧
    after .w256 0x84 (2 ^ 128) (2 ^ 127) 0 0 = some ((2 ^ 255), 0, false, 0x0, 0) := by
  decide +kernel

/-- VM10, VM12. -/
theorem test_mulOvfS :
    after .w8 0x85 0xF0 0x08 0 0 = some (0x80, 0x00, false, 0x0, 0) ∧
    after .w8 0x85 0x80 0xFF 0 0 = some (0x80, 0x00, true, 0x0, 0) := by
  decide

/-- VD1, VD16. -/
theorem test_divU :
    after .w8 0x90 0xFF 0x00 0 0 = some (0xFF, 0x00, false, 0x0, 0) ∧
    after .w256 0x90 (2 ^ 256 - 1) 0xFFFFFFFFFFFFFFFF 0 0 = some (0x1000000000000000100000000000000010000000000000001, 0, false, 0x0, 0) := by
  decide +kernel

/-- VD6, VD8. -/
theorem test_divS :
    after .w8 0x91 0x80 0xFF 0 0 = some (0x80, 0x00, false, 0x0, 0) ∧
    after .w8 0x91 0x07 0xFE 0 0 = some (0xFD, 0x00, false, 0x0, 0) := by
  decide

/-- VD2, VD23. -/
theorem test_remU :
    after .w8 0x92 0xAB 0x00 0 0 = some (0xAB, 0x00, false, 0x0, 0) ∧
    after .w256 0x92 0x5 0x7 0 0 = some (0x5, 0, false, 0x0, 0) := by
  decide +kernel

/-- VD7, VD11. -/
theorem test_remS :
    after .w8 0x93 0x80 0xFF 0 0 = some (0x00, 0x00, false, 0x0, 0) ∧
    after .w8 0x93 0xF9 0xFE 0 0 = some (0xFF, 0x00, false, 0x0, 0) := by
  decide

/-- VL1, VL2. -/
theorem test_putLo :
    after .w16 0xA0 0xABCD 0 0 0 = some (0x00CD, 0x0000, false, 0x0, 0) ∧
    after .w8 0xA0 0xAB 0 0 0 = some (0x00, 0x00, false, 0x0, 1) := by
  decide

/-- VL5, VL7. -/
theorem test_loSext :
    after .w8 0xA1 0xF8 0 0 0 = some (0xF8, 0x00, false, 0x0, 0) ∧
    after .w256 0xA1 (2 ^ 127) 0 0 0 = some ((2 ^ 256 - 2 ^ 127), 0, false, 0x0, 0) := by
  decide +kernel

/-- VR4: a reserved opcode. -/
theorem test_reserved : after .w8 0x1E 0 0 0 1 = some (0, 0, false, 0, 1) := by decide

/-! ### The handshake: the edges of program P6, one step each -/

/-- P6 edge 0. -/
theorem test_p6_reset :
    seen (inst .w8 (inFlight .w8 0x60 1 2 3 4) [{ rst := true, start := true }]) =
      some (false, false, 0, 0, 0, 0) := by
  decide

/-- P6 edge 1: accepted, with latency 2. -/
theorem test_p6_accept :
    seen (inst .w8 reset8 [{ start := true, op := 0x60, a := 0xFF, b := 0x02, lat := 2 }]) =
      some (true, false, 0x60, 0xFF, 0, 1) := by
  decide

/-- P6 edge 2: the request is dropped. -/
theorem test_p6_drop :
    seen (inst .w8 { inFlight .w8 0x60 0xFF 0x02 0 0 with rLo := 0, cnt := 1 }
      [{ start := true, op := 0x61, a := 0x05, b := 0x01 }]) = some (true, false, 0x60, 0xFF, 0, 0) := by
  decide

/-- P6 edge 3: completion. -/
theorem test_p6_complete :
    seen (inst .w8 (inFlight .w8 0x60 0xFF 0x02 0 0) [{}]) = some (false, true, 0x60, 0xFF, 0x01, 0) := by
  decide

/-- P6 edge 4: the next acceptance leaves the result in place. -/
theorem test_p6_hold :
    seen (inst .w8 { reset8 with done := true, rLo := 1 } [{ start := true, op := 0x61, a := 5, b := 1, lat := 3 }]) =
      some (true, false, 0x61, 5, 1, 2) := by
  decide

/-- 10_state.md R35, log entry 3: a latency outside `[1, LAT_MAX]` is brought into it (`LAT_MAX` is 4 here). -/
theorem test_lat_clamped : Config.loadCount 4 0 = 0 ∧ Config.loadCount 4 9 = 3 ∧ Config.loadCount 4 2 = 1 := by
  decide

/-- 10_state.md R27: `{ERR, FLAG, DONE, BUSY}`. -/
theorem test_status :
    ({ reset8 with err := 2, flag := true, done := true }).status = 0b10110 ∧
    ({ reset8 with err := 1, busy := true }).status = 0b01001 := by
  decide

/-! ### The host's side -/

/-- V3, and the two host faults of 60_exceptions.md R224 and 70_reset_and_hazards.md R246. -/
theorem test_bytes :
    bytesOf (0xABCD : BitVec 16) = [0xCD, 0xAB] ∧
    bytesOf (0xDEADBEEF80000000 : BitVec 64) = [0x00, 0x00, 0x00, 0x80, 0xEF, 0xBE, 0xAD, 0xDE] ∧
    hostVal 16 [0xCD, 0xAB] = .ok 0xABCD ∧ hostVal 16 [0xCD] = .error .shortBuffer ∧
    hostVal 16 [1, 2, 3] = .error .shortBuffer ∧ lowHalfImage (0xABCD : BitVec 16) = [0xCD] := by
  decide

theorem test_hostRead :
    hostRead (inst .w8 reset8 []) = .error .readBeforeDone ∧
    hostRead (inst .w8 { reset8 with done := true, rLo := 7 } []) = .ok { lo := 7 } := by
  decide

/-- A host with one idle instance of width 8, at the first line. -/
def host1 (env : HostEnv) (lats : List Nat) : HostState :=
  { blocks := [inst .w8 reset8 []], env := env, line := 0, halted := false, lats := lats }

/-- A line of program P5: `q := DIV_S a=0x80, b=d`, at a latency of 3. -/
theorem test_script_issue :
    (match runLine [] (host1 [("d", .int 2)] [3])
        (.issue "q" 0 ⟨.mnemonic .divS, [(.a, .num 0x80), (.b, .host "d" none)]⟩) with
      | .next h => h.env.lookup "q"
      | _ => none) = some (.res { lo := 0xC0, hi := 0, flag := false, rs := 0, err := 0 }) := by
  decide

/-- The host's own lines: arithmetic, the bit slice, the concatenation and the list element. -/
theorem test_script_terms :
    evalTerm [("i", .int 20)] (.add (.host "i" none) (.num 1)) = 21 ∧
    evalTerm [] (.slice (.num 0xABCD) 15 8) = 0xAB ∧ evalTerm [] (.cat (.num 2) (.num 5) 4) = 0x25 ∧
    evalTerm [("D", .list [0, 0xFF])] (.item "D" (.num 1)) = 0xFF := by
  decide

/-- 95_test_vectors.md P3: `bytes(h.lo)[0 .. 3]` at W = 64. -/
theorem test_script_lowHalf :
    (match runLine [] { host1 [("h", .res ⟨0x80000000, 0, false, 0, 0⟩)] [] with blocks := [State.resetOf ⟨.w64, 4⟩] }
        (.toBytes "out2" 0 (.host "h" (some .lo)) .lowHalf) with
      | .next h => h.env.lookup "out2"
      | _ => none) = some (.list [0x00, 0x00, 0x00, 0x80]) := by
  decide

theorem test_script_jump :
    (match runLine [.halt, .label "L"] (host1 [] []) (.goto "L") with
      | .next h => some h.line
      | _ => none) = some 1 ∧
    (match runLine [.halt] (host1 [] []) (.goto "L") with
      | .refused r => some r
      | _ => none) = some (.missingLabel "L") := by
  decide

/-! ### The structure rules, worked by hand at W = 8 with halves of 4 bits -/

/-- 0x8F + 0x81 = 0x110; 0x10 - 0x21 = -0x11; 0xFF * 0xFF = 0xFE01; 0x81 shifted right by 3, and by 5. -/
theorem test_halves :
    addHalves (h := 4) 0x8F 0x81 = (0x10, true) ∧ subHalves (h := 4) 0x10 0x21 = (0xEF, true) ∧
    mulHalves (h := 4) 0xFF 0xFF = (0x01, 0xFE) ∧ sraHalves (h := 4) 0x81 3 = 0xF0 ∧
    sraHalves (h := 4) 0x81 5 = 0xFC ∧ bitHalves (h := 4) 0x80 7 = true ∧
    changeBitHalves (h := 4) setBit 0x01 6 = 0x41 ∧ clzHalves (h := 4) 0x03 = 6 ∧ cmpSHalves (h := 4) 0x80 0x7F = .lt := by
  decide

/-- VD16, VD17: a one-limb divisor; VD18, VD19: a three-limb one; VD22, VD23: the short-circuit. -/
theorem test_longDivide :
    longDivideU (w := 256) (2 ^ 256 - 1) 0xFFFFFFFFFFFFFFFF = (0x1000000000000000100000000000000010000000000000001, 0) ∧
    longDivideU (w := 256) (2 ^ 256 - 1) (2 ^ 128 + 1) = (2 ^ 128 - 1, 0) ∧
    longDivideU (w := 256) 5 7 = (0, 5) := by
  decide +kernel

/-! ### Witnesses: for every statement with hypotheses, an input that meets them all -/

theorem test_witness_ResetEdge :
    (inst .w8 (inFlight .w8 0x60 1 2 3 4) [{ rst := true, start := true }]).now.rst = true := by decide

/-- At the least and at the greatest latency. -/
theorem test_witness_Acceptance : ∀ k, k = 1 ∨ k = 4 →
    let s := inst .w8 reset8 [{ start := true, lat := k }]
    s.now.rst = false ∧ s.now.start = true ∧ s.regs.busy = false ∧ 1 ≤ s.now.lat ∧ s.now.lat ≤ s.inst.latMax := by
  rintro k (rfl | rfl) <;> decide

theorem test_witness_IdleEdge :
    let s := inst .w8 reset8 [{ op := 0x60, a := 1 }]
    s.now.rst = false ∧ s.now.start = false ∧ s.regs.busy = false := by
  decide

theorem test_witness_PortsWhileBusy :
    let i : Inputs 8 := { start := true, op := 0x61, a := 5 }
    let j : Inputs 8 := {}
    (inFlight .w8 0x60 1 2 3 4).busy = true ∧ i.rst = false ∧ j.rst = false ∧ i ≠ j := by
  decide

/-- One operation, and the one that raises `IllegalOp` at this width. -/
theorem test_witness_StepRuns : ∀ k, k = 0x60 ∨ k = 0xA0 →
    let s := inst .w8 (inFlight .w8 k 1 2 3 4) []
    s.now.rst = false ∧ s.regs.busy = true ∧ s.regs.cnt = 0 ∧ (∃ i, decode s.regs.opl = .ok i) := by
  rintro k (rfl | rfl)
  · exact ⟨by decide, by decide, by decide, .add, by decide⟩
  · exact ⟨by decide, by decide, by decide, .putLo, by decide⟩

/-- The least and the greatest reserved opcode. -/
theorem test_witness_Reserved : ∀ k, k = 0x00 ∨ k = 0xFF →
    let s := inst .w8 (inFlight .w8 k 1 2 3 4) []
    let s' := inst .w8 reset8 [{ start := true, op := BitVec.ofNat 8 k }]
    (s.now.rst = false ∧ s.regs.busy = true ∧ s.regs.cnt = 0 ∧ isReserved s.regs.opl = true) ∧
    s'.now.rst = false ∧ s'.now.start = true ∧ s'.regs.busy = false ∧ isReserved s'.now.op = true := by
  rintro k (rfl | rfl) <;> decide

/-- At the least and at the greatest latency, with other requests on the ports meanwhile. -/
theorem test_witness_Completes : ∀ k, k = 1 ∨ k = 4 →
    let i : Inputs 8 := { start := true, op := 0x60, a := 1, lat := k }
    let rest : List (Inputs 8) := [{ start := true, op := 0x61 }]
    reset8.busy = false ∧ i.rst = false ∧ i.start = true ∧ 1 ≤ i.lat ∧ i.lat ≤ 4 ∧
      ∀ j, j < i.lat → (rest.getD j {}).rst = false := by
  rintro k (rfl | rfl) <;> decide

/-- An idle edge, and an edge of a command in flight. -/
theorem test_witness_ResultsHold : ∀ r, r = reset8 ∨ r = { inFlight .w8 0x60 1 2 3 4 with cnt := 1 } →
    let s := inst .w8 r []
    s.now.rst = false ∧ ¬(s.regs.busy = true ∧ s.regs.cnt = 0) := by
  rintro r (rfl | rfl) <;> decide

/-- The invariant holds in a state with a command in flight, and in one that shows a result. -/
theorem test_witness_Inv :
    (inst .w8 { reset8 with busy := true, opl := 0x60, cnt := 3 } []).Inv ∧
    (inst .w8 { reset8 with done := true, opl := 0x60, al := 2, bl := 3, rLo := 5 } []).Inv := by
  constructor <;> refine ⟨by decide, ?_⟩ <;> constructor <;> decide

/-- A step from a state with the invariant. -/
theorem test_witness_StepKeepsTheInvariant :
    ∃ s t : State, s.Inv ∧ step s = .next t := by
  exact ⟨_, _, test_witness_Inv.1, step_count rfl rfl (by decide)⟩

theorem test_witness_ResetHasTheInvariant : InstanceParams.wf ⟨.w2048, 1⟩ = true := by decide

theorem test_witness_LatchesOnly :
    (inFlight .w8 0x60 1 2 3 4).latched = { inFlight .w8 0x60 1 2 3 4 with rLo := 0, cnt := 7, flag := false }.latched ∧
    inFlight .w8 0x60 1 2 3 4 ≠ { inFlight .w8 0x60 1 2 3 4 with rLo := 0, cnt := 7, flag := false } := by
  decide

/-- `NOT` reads `A` only. -/
theorem test_witness_Unread :
    let x : Command 8 := { op := 0x43, a := 1, b := 2, n := 3, s := 4 }
    let y : Command 8 := { op := 0x43, a := 1, b := 9 }
    (Field.a ∈ Instr.not.reads → x.a = y.a) ∧ (Field.b ∈ Instr.not.reads → x.b = y.b) ∧
    (Field.n ∈ Instr.not.reads → x.n = y.n) ∧ (Field.s ∈ Instr.not.reads → x.s = y.s) ∧ x ≠ y := by
  decide

/-- Each of the five premises is met by an operation. -/
theorem test_witness_Unnamed :
    ResField.lo ∉ Instr.toU8.writes ∧ ResField.hi ∉ Instr.add.writes ∧ ResField.flag ∉ Instr.add.writes ∧
    ResField.rs ∉ Instr.add.writes ∧ ResField.err ∉ Instr.add.writes := by
  decide

/-- One of the twelve, and one that is not. -/
theorem test_witness_Flag :
    (∀ i, i = Instr.eq ∨ i = .mulOvfS →
      i ∈ [Instr.eq, .bit, .addOvfU, .subOvfU, .addOvfS, .subOvfS, .addSatU, .subSatU, .addSatS, .subSatS,
        .mulOvfU, .mulOvfS]) ∧
    Instr.cmpU ∉ [Instr.eq, .bit, .addOvfU, .subOvfU, .addOvfS, .subOvfS, .addSatU, .subSatU, .addSatS, .subSatS,
        .mulOvfU, .mulOvfS] := by
  refine ⟨?_, by decide⟩
  rintro i (rfl | rfl) <;> decide

/-- The first and the last row of the map. -/
theorem test_witness_OpcodeMap : decode 0x01 = .ok .zero ∧ decode 0xA1 = .ok .loSext := by decide

/-- Both sides of each equivalence are taken by some command, and an error occurs. -/
theorem test_witness_ErrorCodes :
    (commandResult { op := 0x00 : Command 8 }).err = 1 ∧ (commandResult { op := 0xA0 : Command 8 }).err = 1 ∧
    (commandResult { op := 0xA0 : Command 16 }).err = 0 ∧ (commandResult { op := 0x1F, n := 16 : Command 16 }).err = 2 ∧
    (commandResult { op := 0x1F, n := 8 : Command 16 }).err = 0 ∧ (commandResult { op := 0x60 : Command 8 }).err = 0 := by
  decide

/-- A literal at the end of its range, and a host variable; the fields `b` and `s` are not written. -/
theorem test_witness_WrittenCommand :
    let c : Written := ⟨.mnemonic .bit, [(.n, .num (2 ^ 32 - 1)), (.a, .host "x" none)]⟩
    c.head = .mnemonic .bit ∧ c.wf .w8 = true ∧ (Field.a, Value.host "x" none) ∈ c.fields ∧
    ((Field.n, Value.num (2 ^ 32 - 1)) ∈ c.fields ∧ (Value.num (2 ^ 32 - 1)).closed .w8 = some (2 ^ 32 - 1)) ∧
    Field.b ∉ c.fields.map Prod.fst := by
  decide

theorem test_witness_Pseudo : ∀ k, k = 1 ∨ k = Width.w8.bits → 1 ≤ k ∧ k ≤ Width.w8.bits := by
  rintro k (rfl | rfl) <;> decide

theorem test_witness_HostReads :
    (inst .w8 { reset8 with done := true } []).regs.done = true ∧ (inst .w8 reset8 []).regs.done = false ∧
    (inst .w8 { reset8 with busy := true, opl := 0x60, cnt := 3 } []).regs.busy = true := by
  decide

/-- Buffers of the right length at the least width, and one byte short and long of it. -/
theorem test_witness_Bytes :
    ([7] : List Byte).length = Width.w8.bits / 8 ∧ ([] : List Byte).length ≠ Width.w8.bits / 8 ∧
    ([7, 8] : List Byte).length ≠ Width.w8.bits / 8 := by
  decide

theorem test_witness_ByteImages :
    (1 < Width.w16.bits / 8 ∧ (7 : Nat) < 8) ∧ Width.w16 ≠ .w8 := by
  decide

theorem test_witness_IssueLine :
    let h := host1 [] [4]
    h.blocks[0]? = some (inst .w8 reset8 []) ∧ (inst .w8 reset8 []).regs.busy = false := by
  decide

/-- A line that changes instance 0 only, seen from instance 1. -/
theorem test_witness_Instances :
    (∃ t, runLine [] { host1 [] [] with blocks := [inst .w8 reset8 [], inst .w8 reset8 []] }
      (.issue "v" 0 ⟨.mnemonic .one, []⟩) = .next t) ∧
    ∀ v blk c, Line.issue "v" 0 ⟨.mnemonic .one, []⟩ = .issue v blk c → blk ≠ 1 := by
  refine ⟨⟨_, rfl⟩, ?_⟩
  rintro v blk c h
  cases h
  decide

/-- The first and the last row of each list of conversions, and the first and last bit of a result. -/
theorem test_witness_Scalars :
    (∀ p, p = (Instr.fromBool, 1) ∨ p = (Instr.fromU128, 128) →
      p ∈ [(Instr.fromBool, 1), (.fromU8, 8), (.fromU16, 16), (.fromU32, 32), (.fromU64, 64), (.fromU128, 128)]) ∧
    (∀ p, p = (Instr.fromI8, 8) ∨ p = (Instr.fromI128, 128) →
      p ∈ [(Instr.fromI8, 8), (.fromI16, 16), (.fromI32, 32), (.fromI64, 64), (.fromI128, 128)]) ∧
    0 < Width.w8.bits ∧ 7 < Width.w8.bits := by
  refine ⟨?_, ?_, by decide, by decide⟩ <;> rintro p (rfl | rfl) <;> decide

/-- The first and the last row, and a result of exactly `W` bits. -/
theorem test_witness_ToScalars :
    (∀ p, p = (Instr.toU8, 8) ∨ p = (Instr.toU128, 128) →
      p ∈ [(Instr.toU8, 8), (.toU16, 16), (.toU32, 32), (.toU64, 64), (.toU128, 128)]) ∧
    (∀ p, p = (Instr.toI8, Instr.toU8, 8) ∨ p = (Instr.toI128, Instr.toU128, 128) →
      p ∈ [(Instr.toI8, Instr.toU8, 8), (.toI16, .toU16, 16), (.toI32, .toU32, 32), (.toI64, .toU64, 64),
        (.toI128, .toU128, 128)]) ∧
    8 ≤ Width.w8.bits ∧ 128 ≤ Width.w128.bits := by
  refine ⟨?_, ?_, by decide, by decide⟩ <;> rintro p (rfl | rfl) <;> decide

/-- The least and the greatest legal source width, and two that are not legal. -/
theorem test_witness_FromNarrow :
    (∃ v : Width, v.bits = 8 ∧ v.bits < Width.w16.bits) ∧ (∃ v : Width, v.bits = 1024 ∧ v.bits < Width.w2048.bits) ∧
    (¬∃ v : Width, v.bits = 16 ∧ v.bits < Width.w16.bits) ∧ ¬∃ v : Width, v.bits = 9 ∧ v.bits < Width.w16.bits := by
  refine ⟨⟨.w8, by decide⟩, ⟨.w1024, by decide⟩, ?_, ?_⟩ <;> rintro ⟨v, h⟩ <;> revert h <;> cases v <;> decide

/-- The bit index at its bounds: 0, and W - 1 for `u(N) = 2^32 - 1`; a zero and a one in `A`. -/
theorem test_witness_Index :
    (0 : Nat) = (0 : Word32).toNat % Width.w8.bits ∧ (7 : Nat) = (0xFFFFFFFF : Word32).toNat % Width.w8.bits ∧
    (0x81 : BitVec 8).getLsbD 7 = true ∧ (0x81 : BitVec 8).getLsbD 6 = false := by
  decide

/-- A count below `W`, at its bounds: the top bit set, and only the lowest. -/
theorem test_witness_BitScans :
    zerosBelow (0x80 : BitVec 8) 8 < 8 ∧ zerosBelow (0x01 : BitVec 8) 8 < 8 ∧ zerosFrom (0x01 : BitVec 8) 0 8 < 8 ∧
    zerosFrom (0x80 : BitVec 8) 0 8 < 8 := by
  decide

/-- A divisor that is not zero, outside the signed overflow and at it. -/
theorem test_witness_Division :
    (1 : BitVec 8) ≠ 0 ∧ ¬((0x80 : BitVec 8) = BitVec.intMin 8 ∧ (1 : BitVec 8) = BitVec.allOnes 8) ∧
    (0xFF : BitVec 8) ≠ 0 ∧ ((0x80 : BitVec 8) = BitVec.intMin 8 ∧ (0xFF : BitVec 8) = BitVec.allOnes 8) := by
  decide

theorem test_witness_LowHalf :
    (inst .w16 (Regs.resetValues 16) []).inst.width ≠ .w8 ∧ (inst .w8 reset8 []).inst.width = .w8 ∧
    ({ n := 3 : Command 8 }).n.toNat = 8 / 2 - 1 := by
  decide

/-- The extension shift at its bounds: position W - 1, and position 0. -/
theorem test_witness_ExtensionShift :
    (0 : Nat) = Width.w8.bits - 1 - (7 : Word32).toNat % Width.w8.bits ∧
    (7 : Nat) = Width.w8.bits - 1 - (8 : Word32).toNat % Width.w8.bits ∧
    extendShiftWrapped { n := 8 : Command 8 } = 7 ∧ extendShiftWrapped { n := 0xFFFFFFFF : Command 8 } = 0 := by
  decide

/-- Halves of one bit, and those of W = 2048. -/
theorem test_witness_Halves : 0 < 1 ∧ 0 < 1024 ∧ Width.w2048.bits = 1024 + 1024 := by decide

/-- The three branches of the reference division. -/
theorem test_witness_ReferenceDivision :
    (7 : BitVec 256) ≠ 0 ∧ (5 : BitVec 256).toNat < (7 : BitVec 256).toNat ∧
    (0xFFFFFFFFFFFFFFFF : BitVec 256).toNat < limbBase ∧ limbBase ≤ (2 ^ 128 + 1 : BitVec 256).toNat := by
  decide +kernel

end Sys2Proof.Tests
end

section
/-! What the results of an operation can be: zero outside the registers the opcode map names, and an error
outcome or no error. -/

namespace Sys2Proof.Machine

variable {w : Nat}

/-- The results with every register outside `fs` set to zero (10_state.md R31). -/
def Results.restrict (x : Results w) (fs : List ResField) : Results w :=
  { lo := if .lo ∈ fs then x.lo else 0
    hi := if .hi ∈ fs then x.hi else 0
    flag := if .flag ∈ fs then x.flag else false
    rs := if .rs ∈ fs then x.rs else 0
    err := if .err ∈ fs then x.err else 0 }

section
variable {x : Results w} {fs : List ResField}

theorem Results.restrict_lo_of_notMem (h : .lo ∉ fs) : (x.restrict fs).lo = 0 := if_neg h
theorem Results.restrict_hi_of_notMem (h : .hi ∉ fs) : (x.restrict fs).hi = 0 := if_neg h
theorem Results.restrict_flag_of_notMem (h : .flag ∉ fs) : (x.restrict fs).flag = false := if_neg h
theorem Results.restrict_rs_of_notMem (h : .rs ∉ fs) : (x.restrict fs).rs = 0 := if_neg h
theorem Results.restrict_err_of_notMem (h : .err ∉ fs) : (x.restrict fs).err = 0 := if_neg h

end

/-- An operation writes zero outside the column "writes" (30_encoding.md R74). Each result is written out as
the fields it names, in every branch of the six operations that have branches. -/
theorem opResult_restrict_writes (i : Instr) (x : Command w) :
    (opResult i x).restrict i.writes = opResult i x := by
  cases i
  case fromNarrow => simp only [opResult, fromNarrowResult]; split <;> rfl
  case divU => simp only [opResult, divUResult]; split <;> rfl
  case divS => simp only [opResult, divSResult]; split_ifs <;> rfl
  case remU => simp only [opResult, remUResult]; split <;> rfl
  case remS => simp only [opResult, remSResult]; split_ifs <;> rfl
  case putLo => simp only [opResult, putLoResult]; split <;> rfl
  all_goals rfl

theorem opResult_lo_of_notMem_writes {i : Instr} (x : Command w) (h : .lo ∉ i.writes) :
    (opResult i x).lo = 0 := by
  rw [← opResult_restrict_writes]; exact Results.restrict_lo_of_notMem h

theorem opResult_hi_of_notMem_writes {i : Instr} (x : Command w) (h : .hi ∉ i.writes) :
    (opResult i x).hi = 0 := by
  rw [← opResult_restrict_writes]; exact Results.restrict_hi_of_notMem h

theorem opResult_flag_of_notMem_writes {i : Instr} (x : Command w) (h : .flag ∉ i.writes) :
    (opResult i x).flag = false := by
  rw [← opResult_restrict_writes]; exact Results.restrict_flag_of_notMem h

theorem opResult_rs_of_notMem_writes {i : Instr} (x : Command w) (h : .rs ∉ i.writes) :
    (opResult i x).rs = 0 := by
  rw [← opResult_restrict_writes]; exact Results.restrict_rs_of_notMem h

theorem opResult_err_of_notMem_writes {i : Instr} (x : Command w) (h : .err ∉ i.writes) :
    (opResult i x).err = 0 := by
  rw [← opResult_restrict_writes]; exact Results.restrict_err_of_notMem h

theorem err_mem_writes_iff (i : Instr) : .err ∈ i.writes ↔ i = .fromNarrow ∨ i = .putLo := by
  cases i <;> decide

/-- The ways a command can end (60_exceptions.md R221, R222): no error, or one of the two error outcomes. -/
theorem opResult_err_cases (i : Instr) (x : Command w) :
    (opResult i x).err = 0 ∨ opResult i x = raiseIllegalOp w ∨ opResult i x = raiseIllegalOperand w := by
  by_cases h : .err ∈ i.writes
  · rcases (err_mem_writes_iff i).1 h with rfl | rfl
    · simp only [opResult, fromNarrowResult]; split <;> simp
    · simp only [opResult, putLoResult]; split <;> simp
  · exact .inl (opResult_err_of_notMem_writes x h)

theorem commandResult_err_cases (x : Command w) :
    (commandResult x).err = 0 ∨ commandResult x = raiseIllegalOp w ∨
      commandResult x = raiseIllegalOperand w := by
  cases h : decode x.op with
  | ok i => rw [commandResult_of_decode h]; exact opResult_err_cases i x
  | error e => exact .inr (.inl (commandResult_of_reject h))

theorem commandResult_err_ne_three (x : Command w) : (commandResult x).err ≠ 3 := by
  rcases commandResult_err_cases x with h | h | h <;> rw [h]
  · decide
  · exact (by decide : errIllegalOp ≠ 3)
  · exact (by decide : errIllegalOperand ≠ 3)

/-- With an error every other result is zero (60_exceptions.md R222). -/
theorem commandResult_zero_of_err {x : Command w} (h : (commandResult x).err ≠ 0) :
    commandResult x = { err := (commandResult x).err } := by
  rcases commandResult_err_cases x with h' | h' | h'
  · exact absurd h' h
  · rw [h']; rfl
  · rw [h']; rfl

end Sys2Proof.Machine
end

section
/-! The coherence of the registers after each kind of edge, and the obligations on the invariant. -/

namespace Sys2Proof.Machine

variable {w m : Nat} {r : Regs w}

theorem Regs.coherent_resetValues (w m : Nat) : (Regs.resetValues w).Coherent m where
  notBoth h := Bool.noConfusion h.1
  bounded h := Bool.noConfusion h
  shown h := Bool.noConfusion h
  fresh _ _ := rfl
  errLegal h := absurd h (by decide : (0 : ErrCode) ≠ 3)
  errAlone h := absurd rfl h

/-- The completion edge needs nothing of the registers before it: the results are `F_W` of the latches. -/
theorem Regs.coherent_complete (r : Regs w) (m : Nat) :
    (r.complete (commandResult r.latched)).Coherent m where
  notBoth h := Bool.noConfusion h.1
  bounded h := Bool.noConfusion h
  shown _ := rfl
  fresh _ h := Bool.noConfusion h
  errLegal := commandResult_err_ne_three _
  errAlone h := by
    have hz := commandResult_zero_of_err h
    simp only [complete_rLo, complete_rHi, complete_flag, complete_rs]
    rw [hz]
    exact ⟨rfl, rfl, rfl, rfl⟩

theorem Regs.Coherent.countDown (h : r.Coherent m) : r.countDown.Coherent m where
  notBoth := h.notBoth
  bounded hb := (Nat.sub_le _ _).trans_lt (h.bounded hb)
  shown := h.shown
  fresh := h.fresh
  errLegal := h.errLegal
  errAlone := h.errAlone

theorem Regs.Coherent.accept (h : r.Coherent m) (hm : 1 ≤ m) (i : Inputs w) :
    (r.accept i m).Coherent m where
  notBoth hbd := Bool.noConfusion hbd.2
  bounded _ := loadCount_lt hm i.lat
  shown hd := Bool.noConfusion hd
  fresh hb := Bool.noConfusion hb
  errLegal := h.errLegal
  errAlone := h.errAlone

theorem wf_iff_one_le_latMax (p : InstanceParams) : p.wf = true ↔ 1 ≤ p.latMax := by
  simp [InstanceParams.wf]

/-- A step answers a next state with the same parameters and coherent registers. -/
theorem step_coherent {p : InstanceParams} {r : Regs p.width.bits} (ins : List (Inputs p.width.bits))
    (hp : p.wf = true) (h : r.Coherent p.latMax) :
    ∃ r' : Regs p.width.bits, step ⟨p, r, ins⟩ = .next ⟨p, r', ins.tail⟩ ∧ r'.Coherent p.latMax := by
  rcases step_cases p r ins with ⟨-, hs⟩ | ⟨-, -, -, hs⟩ | ⟨-, -, -, hs⟩ | ⟨-, -, -, hs⟩ | ⟨-, -, -, hs⟩
  case inl => exact ⟨_, hs, Regs.coherent_resetValues _ _⟩
  case inr.inl => exact ⟨_, hs, r.coherent_complete _⟩
  case inr.inr.inl => exact ⟨_, hs, h.countDown⟩
  case inr.inr.inr.inl => exact ⟨_, hs, h.accept ((wf_iff_one_le_latMax p).1 hp) _⟩
  case inr.inr.inr.inr => exact ⟨_, hs, h⟩

/-- Settles O10: each of the five edges of 10_state.md R36 leaves coherent registers. -/
theorem stepKeepsTheInvariant : Obligations.StepKeepsTheInvariant := by
  rintro ⟨p, r, ins⟩ t ⟨hp, hr⟩ ht
  obtain ⟨r', hs, hr'⟩ := step_coherent ins hp hr
  obtain rfl : ⟨p, r', ins.tail⟩ = t := by simpa [hs] using ht
  exact ⟨hp, hr'⟩

/-- Settles O11: the reset values are coherent at every width and bound. -/
theorem resetHasTheInvariant : Obligations.ResetHasTheInvariant :=
  ⟨fun _ hp => ⟨hp, Regs.coherent_resetValues _ _⟩, by decide, Regs.coherent_resetValues _ _⟩

end Sys2Proof.Machine
end

section
/-! The handshake edge by edge, and runs of edges from acceptance to completion. -/

namespace Sys2Proof.Machine

/-- No step stops: it answers a next state, with the same parameters. -/
theorem step_eq_next (p : InstanceParams) (r : Regs p.width.bits) (ins : List (Inputs p.width.bits)) :
    ∃ r' : Regs p.width.bits, step ⟨p, r, ins⟩ = .next ⟨p, r', ins.tail⟩ := by
  rcases step_cases p r ins with ⟨-, hs⟩ | ⟨-, -, -, hs⟩ | ⟨-, -, -, hs⟩ | ⟨-, -, -, hs⟩ | ⟨-, -, -, hs⟩ <;>
    exact ⟨_, hs⟩

/-- A run of one edge more is the run and then a step. -/
theorem core_run_snoc {k : Nat} {s t : State} (h : core.run k s = .next t) :
    core.run (k + 1) s = step t := by
  induction k generalizing s with
  | zero =>
    obtain rfl : s = t := Host.Outcome.next.inj h
    obtain ⟨p, r, ins⟩ := s
    obtain ⟨r', hs⟩ := step_eq_next p r ins
    rw [core_run_succ 0 hs, hs]
    rfl
  | succ k ih =>
    obtain ⟨p, r, ins⟩ := s
    obtain ⟨r', hs⟩ := step_eq_next p r ins
    rw [core_run_succ k hs] at h
    rw [core_run_succ (k + 1) hs, ih h]

section
variable {p : InstanceParams} {r : Regs p.width.bits} {ins : List (Inputs p.width.bits)}

/-- The port levels after `k` edges are entry `k` of the list, idle past its end. -/
theorem State.now_drop (k : Nat) : State.now ⟨p, r, ins.drop k⟩ = ins.getD k {} := by
  simp [State.now_mk, List.head?_drop, List.headD_eq_head?_getD, List.getD_eq_getElem?_getD]

/-- Edges of a command in flight, up to the last before its completion edge, lower `CNT` and nothing else
(10_state.md R36). -/
theorem core_run_countDown (hb : r.busy = true) {k : Nat} (hk : k ≤ r.cnt)
    (hr : ∀ j, j < k → (ins.getD j {}).rst = false) :
    core.run k ⟨p, r, ins⟩ = .next (⟨p, { r with cnt := r.cnt - k }, ins.drop k⟩ : State) := by
  induction k with
  | zero => rfl
  | succ k ih =>
    have hnow : (State.now ⟨p, { r with cnt := r.cnt - k }, ins.drop k⟩).rst = false := by
      rw [State.now_drop]; exact hr k k.lt_succ_self
    rw [core_run_snoc (ih (Nat.le_of_succ_le hk) fun j hj => hr j (Nat.lt_succ_of_lt hj)),
      step_count hnow hb (Nat.sub_ne_zero_of_lt hk), List.tail_drop]
    rfl

/-- A command in flight completes `CNT + 1` edges later, if none of them is a reset edge. -/
theorem core_run_complete (hb : r.busy = true) (hr : ∀ j, j < r.cnt + 1 → (ins.getD j {}).rst = false) :
    core.run (r.cnt + 1) ⟨p, r, ins⟩ =
      .next (⟨p, { r with cnt := 0 }.complete (commandResult r.latched), ins.drop (r.cnt + 1)⟩ : State) := by
  have hnow : (State.now ⟨p, { r with cnt := r.cnt - r.cnt }, ins.drop r.cnt⟩).rst = false := by
    rw [State.now_drop]; exact hr r.cnt r.cnt.lt_succ_self
  rw [core_run_snoc (core_run_countDown hb le_rfl fun j hj => hr j (Nat.lt_succ_of_lt hj)),
    step_complete hnow hb r.cnt.sub_self, List.tail_drop, Nat.sub_self]
  rfl

end

/-- Settles O7: the acceptance edge loads `CNT` with the latency less 1, the edges before the last lower it,
and the last one completes the command. -/
theorem commandCompletesAfterItsLatency : Obligations.CommandCompletesAfterItsLatency := by
  intro p r i rest hb hrst hstart h1 h2 hquiet
  have hcnt : (r.accept i p.latMax).cnt = i.lat - 1 := loadCount_of_legal h1 h2
  have hrun (k : Nat) : core.run (1 + k) (⟨p, r, i :: rest⟩ : State) =
      core.run k (⟨p, r.accept i p.latMax, rest⟩ : State) := by
    rw [Nat.add_comm]; exact core_run_succ k (step_accept hrst hb hstart)
  constructor
  · intro k hk
    refine ⟨_, (hrun k).trans (core_run_countDown rfl ?_ fun j hj => hquiet j (hj.trans hk)), rfl, rfl, rfl⟩
    omega
  · have hlat : (r.accept i p.latMax).cnt + 1 = i.lat := by omega
    have hdone := core_run_complete (p := p) (r := r.accept i p.latMax) (ins := rest) rfl
      (by rw [hlat]; exact hquiet)
    rw [hlat] at hdone
    exact ⟨_, (hrun _).trans hdone, rfl, rfl, rfl, rfl⟩

/-- Settles O2: acceptance, with a latency choice that the clamp leaves as it is. -/
theorem acceptanceLatchesThePorts : Obligations.AcceptanceLatchesThePorts := by
  rintro ⟨p, r, ins⟩ hrst hstart hb h1 h2
  rw [step_accept hrst hb hstart, ← loadCount_of_legal h1 h2]
  rfl

/-- Settles O4: with `BUSY = 1` and no reset the edge counts or completes, by `CNT` alone. -/
theorem portsWhileBusyLeaveNoTrace : Obligations.PortsWhileBusyLeaveNoTrace := by
  intro p r i j rest hb hi hj
  by_cases hc : r.cnt = 0
  · exact (step_complete (ins := i :: rest) hi hb hc).trans (step_complete (ins := j :: rest) hj hb hc).symm
  · exact (step_count (ins := i :: rest) hi hb hc).trans (step_count (ins := j :: rest) hj hb hc).symm

/-- Settles O5: the completion edge and `exec` write the same results, those of `opResult`. -/
theorem stepRunsTheLatchedOperation : Obligations.StepRunsTheLatchedOperation := by
  rintro ⟨p, r, ins⟩ i hrst hb hc hdec
  have hres : commandResult r.latched = opResult i r.latched := commandResult_of_decode hdec
  rw [step_complete hrst hb hc, exec_mk, hres]

/-- Settles O8: of the five edges only reset and completion write the result registers. -/
theorem resultsHoldBetweenCompletions : Obligations.ResultsHoldBetweenCompletions := by
  rintro ⟨p, r, ins⟩ hrst hnc
  rcases step_cases p r ins with ⟨h, -⟩ | ⟨-, hb, hc, -⟩ | ⟨-, -, -, hs⟩ | ⟨-, -, -, hs⟩ | ⟨-, -, -, hs⟩
  case inl => exact Bool.noConfusion (h.symm.trans hrst)
  case inr.inl => exact absurd ⟨hb, hc⟩ hnc
  all_goals exact ⟨_, hs, rfl, rfl, rfl, rfl, rfl⟩

section
variable {w : Nat} (r : Regs w)

/-- The bits of the status word, the appends of 10_state.md R27 read from the right. -/
theorem Regs.status_getLsbD (k : Nat) : r.status.getLsbD k =
    if k < 1 then (BitVec.ofBool r.busy).getLsbD k
    else if k - 1 < 1 then (BitVec.ofBool r.done).getLsbD (k - 1)
    else if k - 1 - 1 < 1 then (BitVec.ofBool r.flag).getLsbD (k - 1 - 1)
    else r.err.getLsbD (k - 1 - 1 - 1) := by
  change (r.err ++ BitVec.ofBool r.flag ++ BitVec.ofBool r.done ++ BitVec.ofBool r.busy :
    BitVec (2 + 1 + 1 + 1)).getLsbD k = _
  simp only [BitVec.getLsbD_append]

theorem Regs.status_extractLsb'_err : r.status.extractLsb' 3 2 = r.err := by
  apply BitVec.eq_of_getLsbD_eq
  intro k hk
  rw [BitVec.getLsbD_extractLsb', decide_eq_true hk, Bool.true_and, Regs.status_getLsbD,
    if_neg (by omega), if_neg (by omega), if_neg (by omega)]
  congr 1
  omega

end

/-- Settles O12: the four places read off `Regs.status_getLsbD`. -/
theorem statusWordFields : Obligations.StatusWordFields := by
  intro s
  refine ⟨(s.regs.status_getLsbD 0).trans ?_, (s.regs.status_getLsbD 1).trans ?_,
    (s.regs.status_getLsbD 2).trans ?_, s.regs.status_extractLsb'_err⟩ <;> simp

end Sys2Proof.Machine
end

section
/-! Both values of every computation of `FLAG` (Machine/Flags.lean). A sum and a product with `A = B = MIN_S`, and
the difference `0 - MIN_S`, are out of range, unsigned and signed; zeros are in range. -/

namespace Sys2Proof.Machine

variable {w : Nat}

theorem bv_u_add_u (x y : BitVec w) : bv w (u x + u y) = x + y := by
  simp [bv_eq_ofInt, u_eq_toNat, BitVec.ofInt_add]

theorem bv_u_sub_u (x y : BitVec w) : bv w (u x - u y) = x - y := by
  simp [bv_eq_ofInt, u_eq_toNat, Int.sub_eq_add_neg, BitVec.ofInt_add, BitVec.ofInt_neg, BitVec.sub_eq_add_neg]

theorem u_intMin (h : 0 < w) : u (BitVec.intMin w) = (2 ^ (w - 1) : Nat) := by
  rw [u_eq_toNat, BitVec.toNat_intMin_of_pos h]

theorem sgn_intMin (h : 0 < w) : sgn (BitVec.intMin w) = -(2 ^ (w - 1) : Nat) := by
  rw [sgn_eq_toInt, BitVec.toInt_intMin_of_pos h]
  norm_cast

theorem carryOut_intMin (h : 0 < w) : carryOut (BitVec.intMin w) (BitVec.intMin w) = true := by
  have := Nat.two_pow_pred_add_two_pow_pred h
  rw [carryOut, u_intMin h, decide_eq_true_eq]
  omega

theorem borrowOut_zero_intMin (h : 0 < w) : borrowOut 0#w (BitVec.intMin w) = true := by
  have := Nat.two_pow_pos (w - 1)
  rw [borrowOut, u_intMin h, decide_eq_true_eq, u_eq_toNat, BitVec.toNat_zero]
  omega

theorem addOverflow_intMin (h : 0 < w) :
    addOverflow (BitVec.intMin w) (BitVec.intMin w) (bv w (u (BitVec.intMin w) + u (BitVec.intMin w))) = true := by
  have hsum : BitVec.intMin w + BitVec.intMin w = 0#w := by
    rw [← BitVec.sub_neg, BitVec.neg_intMin, BitVec.sub_self]
  rw [bv_u_add_u, hsum]
  simp [addOverflow, BitVec.msb_intMin, h]

theorem subOverflow_zero_intMin (h : 0 < w) :
    subOverflow 0#w (BitVec.intMin w) (bv w (u 0#w - u (BitVec.intMin w))) = true := by
  rw [bv_u_sub_u, BitVec.zero_sub, BitVec.neg_intMin]
  simp [subOverflow, BitVec.msb_intMin, h]

theorem wideLo_getLsbD (i : Int) {k : Nat} (hk : k < w) : (wideLo w i).getLsbD k = (bv (2 * w) i).getLsbD k := by
  simp [wideLo, bitsAt, hk]

theorem wideHi_getLsbD (i : Int) {k : Nat} (hk : k < w) :
    (wideHi w i).getLsbD k = (bv (2 * w) i).getLsbD (w + k) := by
  simp [wideHi, bitsAt, hk]

/-- The high half of `2^(2W-2)` has bit `W-2`. -/
theorem wideHi_intMin_sq_ne_zero (h : 2 ≤ w) :
    wideHi w ((2 ^ (w - 1) : Nat) * (2 ^ (w - 1) : Nat) : Int) ≠ 0#w := by
  have hbit : (wideHi w ((2 ^ (w - 1) : Nat) * (2 ^ (w - 1) : Nat) : Int)).getLsbD (w - 2) = true := by
    rw [wideHi_getLsbD _ (by omega), ← Int.natCast_mul, ← Nat.pow_add, bv_natCast, BitVec.getLsbD_ofNat,
      Nat.testBit_two_pow, Bool.and_eq_true, decide_eq_true_eq, decide_eq_true_eq]
    omega
  intro hz
  rw [hz, BitVec.getLsbD_zero] at hbit
  exact Bool.false_ne_true hbit

theorem msb_wideLo_intMin_sq (h : 2 ≤ w) :
    (wideLo w ((2 ^ (w - 1) : Nat) * (2 ^ (w - 1) : Nat) : Int)).msb = false := by
  rw [BitVec.msb_eq_getLsbD_last, wideLo_getLsbD _ (by omega), ← Int.natCast_mul, ← Nat.pow_add, bv_natCast,
    BitVec.getLsbD_ofNat, Nat.testBit_two_pow_of_ne (by omega), Bool.and_false]

/-- The two products overflow at `MIN_S * MIN_S`. -/
theorem mulOverflowU_intMin (h : 2 ≤ w) :
    mulOverflowU (wideHi w (u (BitVec.intMin w) * u (BitVec.intMin w))) = true := by
  rw [mulOverflowU, u_intMin (by omega), cZero_eq]
  exact decide_eq_true (wideHi_intMin_sq_ne_zero h)

theorem mulOverflowS_intMin (h : 2 ≤ w) :
    mulOverflowS (wideLo w (sgn (BitVec.intMin w) * sgn (BitVec.intMin w)))
      (wideHi w (sgn (BitVec.intMin w) * sgn (BitVec.intMin w))) = true := by
  rw [mulOverflowS, sgn_intMin (by omega), neg_mul_neg, msb_wideLo_intMin_sq h, if_neg Bool.false_ne_true, cZero_eq]
  exact decide_eq_true (wideHi_intMin_sq_ne_zero h)

/-! On operands of zeros every `FLAG` but that of `EQ` is 0; for `EQ` and `BIT` a one tells. -/

theorem equalFlag_self (x : BitVec w) : equalFlag x x = true := decide_eq_true rfl

theorem equalFlag_zero_one (h : 0 < w) : equalFlag 0#w 1#w = false :=
  decide_eq_false (by simpa [BitVec.zero_eq_one_iff] using h.ne')

theorem bitFlag_one_zero (h : 0 < w) : bitFlag 1#w 0 = true := by
  simp [bitFlag, h]

theorem carryOut_zero : carryOut 0#w 0#w = false := by
  simp [carryOut, u_eq_toNat]

theorem borrowOut_self (x : BitVec w) : borrowOut x x = false := decide_eq_false (lt_irrefl _)

theorem addOverflow_zero : addOverflow 0#w 0#w (bv w (u 0#w + u 0#w)) = false := by
  rw [bv_u_add_u]
  simp [addOverflow]

theorem subOverflow_self (x r : BitVec w) : subOverflow x x r = false := by
  simp [subOverflow]

theorem wideLo_zero : wideLo w 0 = 0#w := by
  simp [wideLo, bitsAt, bv_eq_ofInt]

theorem wideHi_zero : wideHi w 0 = 0#w := by
  simp [wideHi, bitsAt, bv_eq_ofInt]

theorem mulOverflowU_zero : mulOverflowU (wideHi w (u 0#w * u 0#w)) = false := by
  simp [mulOverflowU, u_eq_toNat, wideHi_zero, cZero_eq]

theorem mulOverflowS_zero :
    mulOverflowS (wideLo w (sgn 0#w * sgn 0#w)) (wideHi w (sgn 0#w * sgn 0#w)) = false := by
  simp [mulOverflowS, sgn_eq_toInt, wideLo_zero, wideHi_zero, cZero_eq]

end Sys2Proof.Machine
end

section
/-! What every operation writes: its frame, what its results depend on, the registers it leaves zero, and the
twelve that write `FLAG`. -/

namespace Sys2Proof.Machine

/-- Settles O13: an operation ends in `withResults`, which writes the results, `BUSY` and `DONE` alone. -/
theorem everyInstructionCompletesInItsFrame : Obligations.EveryInstructionCompletesInItsFrame :=
  fun i s => ⟨opResult i s.cmd, exec_eq i s⟩

/-- Settles O14: the results are `opResult` of the latched command, which the two states share. -/
theorem resultsDependOnTheLatchesOnly : Obligations.ResultsDependOnTheLatchesOnly := by
  intro i wd m m' r r' ins ins' h
  refine ⟨opResult i r.latched, exec_mk i ⟨wd, m⟩ r ins, ?_⟩
  rw [h]
  exact exec_mk i ⟨wd, m'⟩ r' ins'

/-- Settles O16: by `opResult_restrict_writes`, register by register. -/
theorem unnamedResultsAreWrittenZero : Obligations.UnnamedResultsAreWrittenZero := fun i s =>
  ⟨opResult i s.cmd, exec_eq i s, opResult_lo_of_notMem_writes s.cmd, opResult_hi_of_notMem_writes s.cmd,
    opResult_flag_of_notMem_writes s.cmd, opResult_rs_of_notMem_writes s.cmd,
    opResult_err_of_notMem_writes s.cmd⟩

section
variable {w : Nat}

theorem flag_mem_writes_iff (i : Instr) : .flag ∈ i.writes ↔
    i ∈ [Instr.eq, .bit, .addOvfU, .subOvfU, .addOvfS, .subOvfS, .addSatU, .subSatU, .addSatS, .subSatS,
      .mulOvfU, .mulOvfS] := by
  cases i <;> decide

/-- The operation gives `FLAG = 1` on some command of width `w`, and `FLAG = 0` on another. -/
def FlagVaries (i : Instr) (w : Nat) : Prop :=
  ∃ x y : Command w, (opResult i x).flag = true ∧ (opResult i y).flag = false

/-- The command that makes sums and products overflow. -/
def minSTwice (w : Nat) : Command w := { a := BitVec.intMin w, b := BitVec.intMin w }

/-- The command that makes differences borrow and overflow. -/
def zeroMinS (w : Nat) : Command w := { b := BitVec.intMin w }

/-- Each of the twelve operations that name `FLAG` gives it both values, at every width of two bits or more. -/
theorem flagVaries_of_mem_writes {i : Instr} (hi : .flag ∈ i.writes) (h : 2 ≤ w) : FlagVaries i w := by
  have hpos : 0 < w := by omega
  rw [flag_mem_writes_iff] at hi
  simp only [List.mem_cons, List.not_mem_nil, or_false] at hi
  rcases hi with rfl | rfl | rfl | rfl | rfl | rfl | rfl | rfl | rfl | rfl | rfl | rfl
  · exact ⟨{}, { b := 1 }, equalFlag_self 0#w, equalFlag_zero_one hpos⟩
  · exact ⟨{ a := 1 }, {}, bitFlag_one_zero hpos, BitVec.getLsbD_zero⟩
  · exact ⟨minSTwice w, {}, carryOut_intMin hpos, carryOut_zero⟩
  · exact ⟨zeroMinS w, {}, borrowOut_zero_intMin hpos, borrowOut_self 0#w⟩
  · exact ⟨minSTwice w, {}, addOverflow_intMin hpos, addOverflow_zero⟩
  · exact ⟨zeroMinS w, {}, subOverflow_zero_intMin hpos, subOverflow_self 0#w _⟩
  · exact ⟨minSTwice w, {}, carryOut_intMin hpos, carryOut_zero⟩
  · exact ⟨zeroMinS w, {}, borrowOut_zero_intMin hpos, borrowOut_self 0#w⟩
  · exact ⟨minSTwice w, {}, addOverflow_intMin hpos, addOverflow_zero⟩
  · exact ⟨zeroMinS w, {}, subOverflow_zero_intMin hpos, subOverflow_self 0#w _⟩
  · exact ⟨minSTwice w, {}, mulOverflowU_intMin h, mulOverflowU_zero⟩
  · exact ⟨minSTwice w, {}, mulOverflowS_intMin h, mulOverflowS_zero⟩

end

/-- Settles O17: the twelve are those that name `FLAG` under "writes"; each varies it, the others write 0. -/
theorem flagIsWrittenByExactlyTwelve : Obligations.FlagIsWrittenByExactlyTwelve := by
  intro i
  rw [← flag_mem_writes_iff]
  exact ⟨fun hi wd => flagVaries_of_mem_writes hi (le_trans (by decide) (eight_le_bits wd)),
    fun hi s => ⟨opResult i s.cmd, exec_eq i s, opResult_flag_of_notMem_writes s.cmd hi⟩⟩

end Sys2Proof.Machine
end

section
/-! Byte images (20_memory.md R51, R52, R53, R56): a buffer is told from its value bit by bit, and an image is cut
where the value is. -/

namespace Sys2Proof.Machine

variable {w : Nat}

theorem eight_dvd_bits (wd : Width) : 8 ∣ wd.bits := by cases wd <;> decide

theorem sixteen_dvd_bits {wd : Width} (h : wd ≠ .w8) : 16 ∣ wd.bits := by
  cases wd
  case w8 => exact absurd rfl h
  all_goals decide

/-- Bit `k` of the value of a buffer is bit `k mod 8` of its byte `k / 8`. -/
theorem bytesToNat_testBit (bs : List Byte) (k : Nat) :
    (bytesToNat bs).testBit k = (bs.getD (k / 8) 0).getLsbD (k % 8) := by
  induction bs generalizing k with
  | nil => simp [bytesToNat]
  | cons b bs ih =>
    rw [bytesToNat, Nat.add_comm, Nat.testBit_two_pow_mul_add (i := 8) _ b.isLt]
    split
    · rename_i hk
      rw [Nat.div_eq_of_lt hk, Nat.mod_eq_of_lt hk]
      rfl
    · obtain ⟨j, rfl⟩ := Nat.exists_eq_add_of_le' (Nat.le_of_not_lt ‹_›)
      rw [Nat.add_sub_cancel, ih, Nat.add_div_right j (by decide), Nat.add_mod_right, List.getD_cons_succ]

theorem valOf_getLsbD (bs : List Byte) {k : Nat} (hk : k < w) :
    (valOf w bs).getLsbD k = (bs.getD (k / 8) 0).getLsbD (k % 8) := by
  rw [valOf, BitVec.getLsbD_ofNat, decide_eq_true hk, Bool.true_and, bytesToNat_testBit]

/-- `val(bytes(x)) = x` at widths of whole bytes (20_memory.md R53). -/
theorem valOf_bytesOf (hw : 8 ∣ w) (x : BitVec w) : valOf w (bytesOf x) = x := by
  apply BitVec.eq_of_getLsbD_eq
  intro k hk
  rw [valOf_getLsbD _ hk, bytesOf_getD x _ (Nat.div_lt_div_of_lt_of_dvd hw hk),
    byteLane_getLsbD x _ _ (Nat.mod_lt k (by decide)), Nat.div_add_mod]

theorem byteLane_valOf (bs : List Byte) {i : Nat} (hi : i < w / 8) :
    byteLane (valOf w bs) i = bs.getD i 0 := by
  apply BitVec.eq_of_getLsbD_eq
  intro j hj
  rw [byteLane_getLsbD _ _ _ hj, valOf_getLsbD _ (by omega), Nat.mul_add_div (by decide), Nat.div_eq_of_lt hj,
    Nat.mul_add_mod, Nat.mod_eq_of_lt hj, Nat.add_zero]

/-- `bytes(val(b)) = b` for a buffer of the right length (20_memory.md R53). -/
theorem bytesOf_valOf {bs : List Byte} (hbs : bs.length = w / 8) : bytesOf (valOf w bs) = bs := by
  apply List.ext_getElem (by rw [bytesOf_length, hbs])
  intro i hi hi'
  rw [bytesOf_length] at hi
  rw [← List.getD_eq_getElem _ 0, bytesOf_getD _ i hi, byteLane_valOf bs hi, List.getD_eq_getElem _ 0 hi']

theorem hostVal_of_length {bs : List Byte} (hbs : bs.length = w / 8) : hostVal w bs = .ok (valOf w bs) :=
  if_pos hbs

theorem hostVal_of_length_ne {bs : List Byte} (hbs : bs.length ≠ w / 8) : hostVal w bs = .error .shortBuffer :=
  if_neg hbs

/-- Settles O24: by `valOf_bytesOf` and `bytesOf_valOf`. -/
theorem bytesRoundTrip : Obligations.BytesRoundTrip := by
  intro wd
  refine ⟨fun x => ?_, fun bs hbs => ⟨valOf _ bs, hostVal_of_length hbs, bytesOf_valOf hbs⟩,
    fun bs hbs => hostVal_of_length_ne hbs⟩
  rw [hostVal_of_length (bytesOf_length x), valOf_bytesOf (eight_dvd_bits wd)]

/-- Lane `i` of the bits from `8 * m` up is lane `m + i`. -/
theorem byteLane_bitsAt (x : BitVec w) (m : Nat) {n i : Nat} (hi : i < n) :
    byteLane (bitsAt x (8 * m) (8 * n)) i = byteLane x (m + i) := by
  apply BitVec.eq_of_getLsbD_eq
  intro j hj
  rw [byteLane_getLsbD _ _ _ hj, byteLane_getLsbD _ _ _ hj, bitsAt, BitVec.getLsbD_extractLsb',
    decide_eq_true (by omega), Bool.true_and]
  congr 1
  omega

/-- The image of a value cut at a byte boundary (20_memory.md R52). -/
theorem bytesOf_eq_append (x : BitVec w) {m n : Nat} (h : w / 8 = m + n) :
    bytesOf x = bytesOf (bitsAt x 0 (8 * m)) ++ bytesOf (bitsAt x (8 * m) (8 * n)) := by
  have hlo : bytesOf (bitsAt x 0 (8 * m)) = (List.range m).map (byteLane x) := by
    rw [bytesOf, Nat.mul_div_cancel_left m (by decide)]
    refine List.map_congr_left fun i hi => ?_
    exact (byteLane_bitsAt x 0 (List.mem_range.1 hi)).trans (by rw [Nat.zero_add])
  have hhi : bytesOf (bitsAt x (8 * m) (8 * n)) = (List.range n).map fun i => byteLane x (m + i) := by
    rw [bytesOf, Nat.mul_div_cancel_left n (by decide)]
    exact List.map_congr_left fun i hi => byteLane_bitsAt x m (List.mem_range.1 hi)
  rw [hlo, hhi, bytesOf, h, List.range_add, List.map_append, List.map_map]
  rfl

theorem bytesOf_halves {h : Nat} (x : BitVec (8 * h + 8 * h)) :
    bytesOf x = bytesOf (loHalf x) ++ bytesOf (hiHalf x) :=
  bytesOf_eq_append x (by omega)

theorem bytesOf_zero (w : Nat) : bytesOf 0#w = List.replicate (w / 8) 0 := by
  simp [bytesOf, List.eq_replicate_iff, byteLane, bitsAt]

/-- The image of a zero extension: the image of the value, and zero bytes after it. -/
theorem bytesOf_setWidth {k : Nat} (hk : 8 ∣ k) (hkw : k ≤ w) (v : BitVec k) :
    bytesOf (v.setWidth w) = bytesOf v ++ List.replicate (w / 8 - k / 8) 0 := by
  obtain ⟨m, rfl⟩ := hk
  have hlo : bitsAt (v.setWidth w) 0 (8 * m) = v := by
    rw [bitsAt_zero_eq_setWidth, BitVec.setWidth_setWidth_of_le _ hkw, BitVec.setWidth_eq]
  have hhi : bitsAt (v.setWidth w) (8 * m) (8 * (w / 8 - m)) = 0#_ := by
    apply BitVec.eq_of_getLsbD_eq
    intro i _
    simp [bitsAt]
  rw [bytesOf_eq_append _ (m := m) (n := w / 8 - m) (by omega), hlo, hhi, bytesOf_zero,
    Nat.mul_div_cancel_left _ (by decide), Nat.mul_div_cancel_left _ (by decide)]

theorem putLoResult_lo (hw : w ≠ 8) (x : Command w) :
    (putLoResult x).lo = (x.a.setWidth (w / 2)).setWidth w := by
  rw [putLoResult, if_neg hw, lowHalf, bitsAt_zero_eq_setWidth, zextTo_eq_setWidth]

/-- The image of a `PUT_LO` result (20_memory.md R56). -/
theorem bytesOf_putLoResult_lo (hw : 16 ∣ w) (x : Command w) :
    bytesOf (putLoResult x).lo = bytesOf (x.a.setWidth (w / 2)) ++ List.replicate (w / 16) 0 := by
  have hhalf : w / 8 - w / 2 / 8 = w / 16 := by omega
  rw [putLoResult_lo (by omega), bytesOf_setWidth (by omega) (by omega), hhalf]

theorem lowHalfImage_putLoResult (hw : 16 ∣ w) (x : Command w) :
    lowHalfImage (putLoResult x).lo = bytesOf (x.a.setWidth (w / 2)) := by
  rw [lowHalfImage, bytesOf_putLoResult_lo hw]
  exact List.take_left' ((bytesOf_length _).trans (by omega))

/-- Settles O25: the lanes of an image, the cut of R52, and the image of a zero-extended low half. -/
theorem byteImages : Obligations.ByteImages := by
  refine ⟨fun wd x i j hi hj => ?_, fun h x => bytesOf_halves x, fun wd x hwd =>
    ⟨lowHalfImage_putLoResult (sixteen_dvd_bits hwd) x, bytesOf_putLoResult_lo (sixteen_dvd_bits hwd) x⟩⟩
  rw [bytesOf_getD x i hi, byteLane_getLsbD x i j hj]

end Sys2Proof.Machine
end

section
/-! What a line of a script does to the instances (20_memory.md R60). -/

namespace Sys2Proof.Machine

variable {ls : List Line} {h t : HostState}

@[simp] theorem HostState.bindNext_blocks (h : HostState) (v : String) (x : HostVal) :
    (h.bindNext v x).blocks = h.blocks := rfl

theorem HostState.jump_blocks {l : String} (ht : h.jump ls l = .next t) : t.blocks = h.blocks := by
  unfold HostState.jump at ht
  split at ht
  · cases ht
    rfl
  · cases ht

/-- A command that is issued and read replaces the instance it is issued to. -/
theorem issueOn_blocks {s : State} {v : String} {blk : Nat} {c : Written} (ht : issueOn h s v blk c = .next t) :
    ∃ s' : State, t.blocks = h.blocks.set blk s' := by
  unfold issueOn at ht
  split at ht
  · cases ht
  · cases ht
  · split at ht
    · cases ht
    · cases ht
      exact ⟨_, rfl⟩

/-- What a line that runs does to the instances: nothing, or it replaces the one it issues to. -/
theorem runLine_blocks {l : Line} (ht : runLine ls h l = .next t) :
    t.blocks = h.blocks ∨
      ∃ v blk c, l = .issue v blk c ∧ ∃ s' : State, t.blocks = h.blocks.set blk s' := by
  cases l with
  | issue v blk c =>
    refine .inr ⟨v, blk, c, rfl, ?_⟩
    simp only [runLine] at ht
    split at ht
    · cases ht
    · split at ht
      · cases ht
      · cases ht
      · exact issueOn_blocks ht
  | letInt v x => cases ht; exact .inl rfl
  | letList v xs => cases ht; exact .inl rfl
  | fromBytes v blk bs =>
    simp only [runLine] at ht
    split at ht
    · cases ht
    · split at ht
      · cases ht; exact .inl rfl
      · cases ht
  | toBytes v blk x im =>
    simp only [runLine] at ht
    split at ht
    · cases ht
    · cases ht; exact .inl rfl
  | label l => cases ht; exact .inl rfl
  | goto l => exact .inl (HostState.jump_blocks ht)
  | ifGoto c l =>
    simp only [runLine] at ht
    split at ht
    · exact .inl (HostState.jump_blocks ht)
    · cases ht; exact .inl rfl
  | halt => cases ht; exact .inl rfl

/-- Settles O27: by `runLine_blocks`; replacing one entry of a list leaves its length and the other entries. -/
theorem instancesAreIndependent : Obligations.InstancesAreIndependent := by
  intro ls h t l j ht hl
  rcases runLine_blocks ht with hb | ⟨v, blk, c, rfl, s', hb⟩
  · rw [hb]
    exact ⟨rfl, rfl⟩
  · rw [hb]
    exact ⟨List.getElem?_set_ne (hl v blk c rfl), List.length_set⟩

end Sys2Proof.Machine
end

section
/-! The opcode map read both ways, and the reserved opcodes (30_encoding.md R74, R75, R77). -/

namespace Sys2Proof.Machine

@[simp] theorem decode_encode (i : Instr) : decode (encode i) = .ok i := by
  cases i <;> rfl

/-- Every opcode byte is the code of the operation it selects, or is rejected by name. -/
theorem decode_cases (op : Opcode) :
    (∃ i : Instr, decode op = .ok i ∧ encode i = op) ∨ decode op = .error (.reservedOpcode op) := by
  unfold decode
  split
  case h_77 => exact .inr rfl
  all_goals exact .inl ⟨_, rfl, BitVec.eq_of_toNat_eq (Eq.symm ‹_›)⟩

theorem encode_of_decode {op : Opcode} {i : Instr} (h : decode op = .ok i) : encode i = op := by
  rcases decode_cases op with ⟨j, hj, rfl⟩ | he
  · rw [Except.ok.inj (h.symm.trans hj)]
  · simp [h] at he

/-- The ranges of 30_encoding.md R75 are the bytes the decoder rejects, by going through all 256 of them. -/
theorem isReserved_iff_decode :
    ∀ op : Opcode, isReserved op = true ↔ decode op = .error (.reservedOpcode op) := by
  decide +kernel

theorem isReserved_iff_forall_encode_ne (op : Opcode) :
    isReserved op = true ↔ ∀ i : Instr, encode i ≠ op := by
  rw [isReserved_iff_decode]
  constructor
  · rintro h i rfl
    simp at h
  · intro h
    exact (decode_cases op).resolve_left fun ⟨i, _, hi⟩ => h i hi

/-- Settles O19: by `decode_encode` and `decode_cases`. -/
theorem opcodeMapReadBothWays : Obligations.OpcodeMapReadBothWays :=
  ⟨decode_encode, fun _ _ => encode_of_decode,
    fun op => (decode_cases op).imp_left fun ⟨i, hi, _⟩ => ⟨i, hi⟩⟩

/-- Settles O20: the twelve bytes are fixed, and the decoder runs on each. -/
theorem wordsOfTheOpcodeMap : Obligations.WordsOfTheOpcodeMap :=
  ⟨rfl, rfl, rfl, rfl, rfl, rfl, rfl, rfl, rfl, rfl, rfl, rfl⟩

/-- Settles O6: the ranges are the bytes outside the map; acceptance looks at no opcode, and the completion edge of
a rejected one writes the `IllegalOp` outcome. -/
theorem reservedOpcodesCompleteWithIllegalOp : Obligations.ReservedOpcodesCompleteWithIllegalOp := by
  refine ⟨isReserved_iff_forall_encode_ne, by decide +kernel, ?_, ?_⟩
  · rintro ⟨p, r, ins⟩ hrst hstart hb -
    exact ⟨_, step_accept hrst hb hstart⟩
  · rintro ⟨p, r, ins⟩ hrst hb hc hres
    rw [step_complete hrst hb hc,
      commandResult_of_reject (x := r.latched) ((isReserved_iff_decode _).1 hres)]
    rfl

end Sys2Proof.Machine
end

section
/-! What a written command encodes to (30_encoding.md R78): each written field holds its value, and the others stay
as they are. -/

namespace Sys2Proof

variable {wd : Width} {env : HostEnv}

@[simp] theorem putFields_op (fs : List (Field × Value)) (x : Command wd.bits) :
    (putFields wd env x fs).op = x.op := by
  induction fs generalizing x with
  | nil => rfl
  | cons fv fs ih => rw [putFields, ih, Command.put_op]

theorem putFields_get_of_notMem {fs : List (Field × Value)} {f : Field} (hf : f ∉ fs.map Prod.fst)
    (x : Command wd.bits) : (putFields wd env x fs).get f = x.get f := by
  induction fs generalizing x with
  | nil => rfl
  | cons gv fs ih =>
    obtain ⟨hne, hnot⟩ := not_or.1 (mt List.mem_cons.2 hf)
    rw [putFields, ih hnot, Command.get_put_ne _ _ (Ne.symm hne)]

/-- A field written once holds its value's pattern: no later field overwrites it. -/
theorem putFields_get_of_mem {fs : List (Field × Value)} (hnd : (fs.map Prod.fst).Nodup) {f : Field} {v : Value}
    (hf : (f, v) ∈ fs) (x : Command wd.bits) :
    ((putFields wd env x fs).get f : Int) = v.eval wd env % (2 ^ f.bits wd : Nat) := by
  induction fs generalizing x with
  | nil => exact absurd hf List.not_mem_nil
  | cons gv fs ih =>
    obtain ⟨hnot, hnd'⟩ := List.nodup_cons.1 hnd
    rcases List.mem_cons.1 hf with rfl | hf'
    · rw [putFields, putFields_get_of_notMem hnot, Command.get_put_mod]
    · exact ih hnd' hf' _

@[simp] theorem assemble_op (c : Written) : (assemble wd env c).op = c.head.opcode := putFields_op _ _

theorem assemble_get_of_notMem {c : Written} {f : Field} (hf : f ∉ c.fields.map Prod.fst) :
    (assemble wd env c).get f = 0 := by
  rw [assemble, putFields_get_of_notMem hf]
  cases f <;> rfl

theorem Value.fits_of_closed {f : Field} {v : Value} {k : Nat} (hk : v.closed wd = some k)
    (hv : v.fits wd f = true) : k < 2 ^ f.bits wd := by
  simpa [Value.fits, hk] using hv

theorem Written.wf_iff (c : Written) : c.wf wd = true ↔
    (c.fields.map Prod.fst).Nodup ∧ c.readsGiven = true ∧ ∀ f v, (f, v) ∈ c.fields → v.fits wd f = true := by
  simp [Written.wf, Written.fieldsOnce, and_assoc]

end Sys2Proof

namespace Sys2Proof.Machine

/-- Settles O21: by `putFields_get_of_mem`, a field being written once; a value that fits is its own pattern. -/
theorem writtenCommandRoundTrip : Obligations.WrittenCommandRoundTrip := by
  rintro wd env ⟨_, fs⟩ i rfl hwf
  obtain ⟨hnd, -, hfits⟩ := (Written.wf_iff _).1 hwf
  have hheld (f : Field) (v : Value) (hf : (f, v) ∈ fs) :
      ((assemble wd env ⟨.mnemonic i, fs⟩).get f : Int) = v.eval wd env % (2 ^ f.bits wd : Nat) :=
    putFields_get_of_mem hnd hf _
  refine ⟨?_, hheld, fun f v k hf hk => ?_, fun f => assemble_get_of_notMem⟩
  · rw [assemble_op]
    exact decode_encode i
  · have hlt := Value.fits_of_closed hk (hfits f v hf)
    have heq := hheld f v hf
    rw [Value.eval_closed hk, ← Int.natCast_mod, Nat.mod_eq_of_lt hlt] at heq
    exact Int.ofNat.inj heq

end Sys2Proof.Machine
end

section
/-! The operand fields an operation does not read (30_encoding.md R71). -/

namespace Sys2Proof

variable {w : Nat}

/-- The command with the opcode and every field outside `fs` set to zero. -/
def Command.restrict (x : Command w) (fs : List Field) : Command w :=
  { a := if .a ∈ fs then x.a else 0
    b := if .b ∈ fs then x.b else 0
    n := if .n ∈ fs then x.n else 0
    s := if .s ∈ fs then x.s else 0 }

theorem Command.restrict_congr {x y : Command w} {fs : List Field}
    (ha : .a ∈ fs → x.a = y.a) (hb : .b ∈ fs → x.b = y.b) (hn : .n ∈ fs → x.n = y.n) (hs : .s ∈ fs → x.s = y.s) :
    x.restrict fs = y.restrict fs := by
  rw [restrict, restrict, Command.mk.injEq]
  exact ⟨rfl, if_ctx_congr .rfl ha fun _ => rfl, if_ctx_congr .rfl hb fun _ => rfl,
    if_ctx_congr .rfl hn fun _ => rfl, if_ctx_congr .rfl hs fun _ => rfl⟩

end Sys2Proof

namespace Sys2Proof.Machine

variable {w : Nat}

/-- An operation takes its operands from the column "reads" alone (30_encoding.md R74). -/
theorem opResult_restrict_reads (i : Instr) (x : Command w) :
    opResult i (x.restrict i.reads) = opResult i x := by
  cases i <;> rfl

/-- Settles O15: by `opResult_restrict_reads`; the two commands are one on the fields read. -/
theorem unreadFieldsAreIgnored : Obligations.UnreadFieldsAreIgnored := by
  intro i w x y ha hb hn hs
  rw [← opResult_restrict_reads i x, ← opResult_restrict_reads i y, Command.restrict_congr ha hb hn hs]

end Sys2Proof.Machine
end

section
/-! What the pseudo-commands compute (30_encoding.md R80), through the operations they expand to. -/

namespace Sys2Proof.Machine

section
variable {wd : Width} {env : HostEnv} {i : Instr} {va vb vn : Value} {x y : BitVec wd.bits} {n : Word32}

/-- A written command with a mnemonic computes that operation on the ports it encodes to. -/
theorem commandResult_assemble (fs : List (Field × Value)) :
    commandResult (assemble wd env ⟨.mnemonic i, fs⟩) = opResult i (assemble wd env ⟨.mnemonic i, fs⟩) := by
  refine commandResult_of_decode ?_
  rw [assemble_op]
  exact decode_encode i

theorem commandResult_assemble_ab (ha : va.eval wd env = x.toNat) (hb : vb.eval wd env = y.toNat) :
    commandResult (assemble wd env ⟨.mnemonic i, [(.a, va), (.b, vb)]⟩) =
      opResult i { op := encode i, a := x, b := y } := by
  rw [commandResult_assemble]
  simp [assemble, putFields, Command.put, Head.opcode, ha, hb]

theorem commandResult_assemble_an (ha : va.eval wd env = x.toNat) (hn : vn.eval wd env = n.toNat) :
    commandResult (assemble wd env ⟨.mnemonic i, [(.a, va), (.n, vn)]⟩) =
      opResult i { op := encode i, a := x, n := n } := by
  rw [commandResult_assemble]
  simp [assemble, putFields, Command.put, Head.opcode, ha, hn]

end

section
variable {w : Nat}

theorem ofBool_eq_ofNat_toNat (t : Bool) : ofBool w t = BitVec.ofNat w t.toNat := by
  cases t <;> exact ofBool_eq w _

/-- Digit 1 of an integer to the base `b` is that of its two lowest digits. -/
theorem emod_sq_ediv_emod (i : Int) {b : Int} (hb : b ≠ 0) : i % (b * b) / b % b = i / b % b := by
  conv_rhs => rw [← Int.emod_add_mul_ediv i (b * b), mul_assoc, Int.add_mul_ediv_left _ _ hb,
    Int.add_mul_emod_self_left]

/-- The high half of the pattern of an integer is the pattern of its quotient by `2^W`, rounded down. -/
theorem wideHi_eq_ofInt (i : Int) : wideHi w i = BitVec.ofInt w (i / (2 : Int) ^ w) := by
  have hpos : (0 : Int) < 2 ^ w := by positivity
  have hsq : ((2 ^ (2 * w) : Nat) : Int) = 2 ^ w * 2 ^ w := by push_cast; ring
  have hnonneg : 0 ≤ i % (2 ^ w * 2 ^ w : Int) := Int.emod_nonneg _ (by positivity)
  apply BitVec.eq_of_toNat_eq
  simp only [wideHi, bitsAt, bv, BitVec.extractLsb'_toNat, Nat.shiftRight_eq_div_pow, BitVec.toNat_ofInt, hsq]
  zify
  rw [Int.toNat_of_nonneg hnonneg, Int.toNat_of_nonneg (Int.emod_nonneg _ hpos.ne'),
    emod_sq_ediv_emod i hpos.ne']

theorem getLsbD_shiftLeft_add (x : BitVec w) {m j : Nat} (h : m + j < w) :
    (x <<< m).getLsbD (m + j) = x.getLsbD j := by
  simp only [BitVec.getLsbD_shiftLeft, h, Nat.not_lt.2 (Nat.le_add_right m j), Nat.add_sub_cancel_left, decide_true,
    decide_false, Bool.not_false, Bool.true_and]

theorem msb_shiftLeft_sub {k : Nat} (h1 : 1 ≤ k) (hk : k ≤ w) (x : BitVec w) :
    (x <<< (w - k)).msb = (x.setWidth k).msb := by
  rw [BitVec.msb_eq_getLsbD_last, BitVec.msb_eq_getLsbD_last, show w - 1 = w - k + (k - 1) by omega,
    getLsbD_shiftLeft_add x (by omega), BitVec.getLsbD_setWidth, decide_eq_true (by omega), Bool.true_and]

/-- Moving bit `k-1` to the sign position and back extends the sign of the low `k` bits. -/
theorem shiftLeft_sshiftRight_eq_signExtend {k : Nat} (h1 : 1 ≤ k) (hk : k ≤ w) (x : BitVec w) :
    (x <<< (w - k)).sshiftRight (w - k) = (x.setWidth k).signExtend w := by
  apply BitVec.eq_of_getLsbD_eq
  intro j hj
  rw [BitVec.getLsbD_sshiftRight, BitVec.getLsbD_signExtend, msb_shiftLeft_sub h1 hk]
  by_cases hjk : j < k
  · rw [if_pos (by omega), getLsbD_shiftLeft_add x (by omega)]
    simp [hj, hjk]
  · rw [if_neg (by omega)]
    simp [hj, hjk]

theorem shiftLeft_ushiftRight_eq_setWidth {k : Nat} (hk : k ≤ w) (x : BitVec w) :
    (x <<< (w - k)) >>> (w - k) = (x.setWidth k).setWidth w := by
  apply BitVec.eq_of_getLsbD_eq
  intro j hj
  rw [BitVec.getLsbD_ushiftRight]
  by_cases hjk : j < k
  · rw [getLsbD_shiftLeft_add x (by omega)]
    simp [hj, hjk]
  · rw [BitVec.getLsbD_of_ge _ _ (by omega)]
    simp [hjk]

/-- For the position `k - 1` the shift of `SEXT` and `ZEXT` leaves the low `k` bits (42_shift_extend.md R155). -/
theorem extendShift_of_pred {k : Nat} (h1 : 1 ≤ k) (hk : k ≤ w) {x : Command w} (hn : x.n.toNat = k - 1) :
    extendShift x = w - k := by
  rw [extendShift, index, hn, Nat.mod_eq_of_lt (by omega)]
  omega

variable (op : Opcode) (x y : BitVec w)

theorem subResult_zero : subResult { op := op, a := cZero w, b := x } = { lo := -x } := by
  rw [subResult, bv_u_sub_u, cZero_eq, BitVec.zero_sub]

theorem eqResult_zero : eqResult { op := op, a := x, b := cZero w } =
    { lo := BitVec.ofNat w (x == 0).toNat, flag := x == 0 } := by
  have hflag : equalFlag x (cZero w) = (x == 0) := by rw [cZero_eq]; rfl
  simp only [eqResult, hflag, ofBool_eq_ofNat_toNat]

theorem sextResult_of_pred {k : Nat} (h1 : 1 ≤ k) (hk : k ≤ w) {n : Word32} (hn : n.toNat = k - 1) :
    sextResult { op := op, a := x, n := n } = { lo := (x.setWidth k).signExtend w } := by
  simp only [sextResult, extendShift_of_pred (x := { op := op, a := x, n := n }) h1 hk hn,
    shiftLeft_sshiftRight_eq_signExtend h1 hk]

theorem zextResult_of_pred {k : Nat} (h1 : 1 ≤ k) (hk : k ≤ w) {n : Word32} (hn : n.toNat = k - 1) :
    zextResult { op := op, a := x, n := n } = { lo := (x.setWidth k).setWidth w } := by
  simp only [zextResult, extendShift_of_pred (x := { op := op, a := x, n := n }) h1 hk hn,
    shiftLeft_ushiftRight_eq_setWidth hk]

theorem mulWideUResult_eq : mulWideUResult { op := op, a := x, b := y } =
    { lo := wideLo w (u x * u y), hi := BitVec.ofNat w (x.toNat * y.toNat / 2 ^ w) } := by
  have hhi : BitVec.ofNat w (x.toNat * y.toNat / 2 ^ w) = wideHi w (u x * u y) := by
    rw [wideHi_eq_ofInt, ← BitVec.ofInt_natCast]
    push_cast
    rfl
  rw [hhi]
  rfl

theorem mulWideSResult_eq : mulWideSResult { op := op, a := x, b := y } =
    { lo := wideLo w (sgn x * sgn y), hi := BitVec.ofInt w (x.toInt * y.toInt / (2 : Int) ^ w) } := by
  rw [← sgn_eq_toInt, ← sgn_eq_toInt, ← wideHi_eq_ofInt]
  rfl

theorem mulWideSUResult_eq : mulWideSUResult { op := op, a := x, b := y } =
    { lo := wideLo w (sgn x * u y), hi := BitVec.ofInt w (x.toInt * y.toNat / (2 : Int) ^ w) } := by
  rw [← sgn_eq_toInt, ← u_eq_toNat, ← wideHi_eq_ofInt]
  rfl

theorem bitResult_eq {n : Word32} : bitResult { op := op, a := x, n := n } =
    { lo := BitVec.ofNat w (x.getLsbD (n.toNat % w)).toNat, flag := x.getLsbD (n.toNat % w) } := by
  rw [bitResult, ofBool_eq_ofNat_toNat]
  rfl

theorem ofInt_neg_one : BitVec.ofInt w (-1) = BitVec.allOnes w := by
  simp [BitVec.ofInt_neg, BitVec.neg_one_eq_allOnes]

end

/-- The one command of `ALL_ONES` and of `MINUS_ONE`. -/
theorem commandResult_assemble_maxU (wd : Width) (env : HostEnv) :
    commandResult (assemble wd env ⟨.mnemonic .maxU, []⟩) = { lo := BitVec.allOnes wd.bits } := by
  rw [commandResult_assemble, ← cMaxU_eq]
  rfl

/-- Settles O22: each expansion is encoded, and its operation computed, by the lemmas above. -/
theorem pseudoCommandsCompute : Obligations.PseudoCommandsCompute := by
  intro wd x y i k h1 hk run
  have hn : (BitVec.ofNat 32 (k - 1)).toNat = k - 1 :=
    Nat.mod_eq_of_lt (by have := bits_le wd; omega)
  refine ⟨?neg, ?isZero, ?mulhu, ?mulh, ?mulhsu, ?sextFrom, ?zextFrom, ?tst, ?allOnes, ?minusOne⟩
  case neg => exact (commandResult_assemble_ab rfl rfl).trans (subResult_zero _ x)
  case isZero => exact (commandResult_assemble_ab rfl rfl).trans (eqResult_zero _ x)
  case mulhu => exact ⟨_, (commandResult_assemble_ab rfl rfl).trans (mulWideUResult_eq _ x y)⟩
  case mulh => exact ⟨_, (commandResult_assemble_ab rfl rfl).trans (mulWideSResult_eq _ x y)⟩
  case mulhsu => exact ⟨_, (commandResult_assemble_ab rfl rfl).trans (mulWideSUResult_eq _ x y)⟩
  case sextFrom =>
    exact (commandResult_assemble_an rfl (congrArg Nat.cast hn.symm)).trans (sextResult_of_pred _ x h1 hk hn)
  case zextFrom =>
    exact (commandResult_assemble_an rfl (congrArg Nat.cast hn.symm)).trans (zextResult_of_pred _ x h1 hk hn)
  case tst => exact (commandResult_assemble_an rfl rfl).trans (bitResult_eq _ x)
  case allOnes => exact commandResult_assemble_maxU wd []
  case minusOne => rw [ofInt_neg_one]; exact commandResult_assemble_maxU wd []

end Sys2Proof.Machine
end

section
/-! A line of a script that issues a command to an idle instance (30_encoding.md R79). -/

namespace Sys2Proof.Machine

/-- A command issued to an idle instance completes with `F_W` of its fields, at any latency. -/
theorem issue_idle {p : InstanceParams} {r : Regs p.width.bits} (hb : r.busy = false) (x : Command p.width.bits)
    (lat : Nat) : ∃ t : Regs p.width.bits, issue ⟨p, r, []⟩ x lat = .next ⟨p, t, []⟩ ∧
      t.busy = false ∧ t.done = true ∧ t.latched = x ∧ t.results = commandResult x := by
  obtain ⟨t, hwait, ht⟩ := waitIdle_busy p _ (r.accept (presenting x lat) p.latMax) rfl rfl
  refine ⟨t, ?_, ht⟩
  have hstep : step ⟨p, r, [presenting x lat]⟩ = .next ⟨p, r.accept (presenting x lat) p.latMax, []⟩ :=
    step_accept rfl hb rfl
  simp only [issue, hstep]
  exact hwait

theorem hostRead_of_done {s : State} (h : s.regs.done = true) : hostRead s = .ok s.regs.results := if_pos h

/-- Settles O26: the idle instance is not waited for, and the command is issued, completed and read. -/
theorem issueLineBindsTheResults : Obligations.IssueLineBindsTheResults := by
  rintro ls h ⟨p, r, ins⟩ v blk c hblk hb x
  obtain ⟨t, hissue, htb, htd, htl, htr⟩ := issue_idle hb x (h.lats.headD 1)
  refine ⟨t, ?_, htb, htd, htl, htr⟩
  have hread : hostRead ⟨p, t, []⟩ = .ok t.results := hostRead_of_done htd
  simp only [runLine, hblk, settle_idle p r hb, issueOn]
  simp only [x] at hissue
  simp only [hissue, hread, htr]
  rfl

end Sys2Proof.Machine
end

section
/-! The constants, and the conversions from and to native scalars and from narrower widths
(40_constants_conversion.md R100 to R128): the results of each group of operations through one expression in the
scalar's width, and that expression in the terms of the statements. -/

namespace Sys2Proof.Machine

variable {w : Nat}

theorem exec_of_opResult {i : Instr} {s : State} {x : Results s.bits} (h : opResult i s.cmd = x) :
    exec i s = .next (s.withResults x) := by
  rw [exec_eq, h]

theorem bv_natCast_sub_one (w : Nat) {n : Nat} (hn : 0 < n) : bv w ((n : Int) - 1) = BitVec.ofNat w (n - 1) := by
  rw [← Nat.cast_pred hn, bv_natCast]

/-- Settles O28: each constant is the pattern of a natural number, at every width. -/
theorem constantCommands : Obligations.ConstantCommands := by
  intro s
  refine ⟨?zero, ?one, ?minU, ?maxU, ?minS, ?maxS⟩ <;> apply exec_of_opResult
  case zero | one | minU | minS => rw [← bv_natCast]; rfl
  case maxU | maxS => rw [← bv_natCast_sub_one _ (Nat.two_pow_pos _)]; rfl

/-! Scalars on `S`. -/

theorem zextTo_scalarIn_getLsbD (x : Command w) (k : Nat) {j : Nat} (hj : j < w) :
    (zextTo w (scalarIn x k)).getLsbD j = (decide (j < k) && x.s.getLsbD j) := by
  rw [zextTo_eq_setWidth, scalarIn, bitsAt_zero_eq_setWidth]
  simp [hj]

/-- Past the sign bit `S[k-1]` every bit is a copy of it. -/
theorem sextTo_scalarIn_getLsbD (x : Command w) {k : Nat} (hk : 0 < k) {j : Nat} (hj : j < w) :
    (sextTo w (scalarIn x k)).getLsbD j = x.s.getLsbD (min j (k - 1)) := by
  rw [sextTo_eq_signExtend, scalarIn, bitsAt_zero_eq_setWidth, BitVec.getLsbD_signExtend,
    BitVec.msb_eq_getLsbD_last, decide_eq_true hj, Bool.true_and, BitVec.getLsbD_setWidth, BitVec.getLsbD_setWidth]
  by_cases hjk : j < k
  · rw [if_pos hjk, decide_eq_true hjk, Bool.true_and, min_eq_left (by omega)]
  · rw [if_neg hjk, decide_eq_true (by omega), Bool.true_and, min_eq_right (by omega)]

/-- Settles O29: every operation of the group writes `zext_W(S[k-1:0])`, read bit by bit. -/
theorem unsignedScalarsZeroExtend : Obligations.UnsignedScalarsZeroExtend := by
  intro i k hik s
  have hop : opResult i s.cmd = { lo := zextTo s.bits (scalarIn s.cmd k) } := by
    fin_cases hik <;> rfl
  exact ⟨_, exec_of_opResult hop, fun j hj => zextTo_scalarIn_getLsbD s.cmd k hj⟩

/-- Settles O30: every operation of the group writes `sext_W(S[k-1:0])`, read bit by bit. -/
theorem signedScalarsSignExtend : Obligations.SignedScalarsSignExtend := by
  intro i k hik s
  have hop : opResult i s.cmd = { lo := sextTo s.bits (scalarIn s.cmd k) } ∧ 0 < k := by
    fin_cases hik <;> exact ⟨rfl, by decide⟩
  obtain ⟨hop, hk⟩ := hop
  exact ⟨_, exec_of_opResult hop, fun j hj => sextTo_scalarIn_getLsbD s.cmd hk hj⟩

/-! Narrower widths. -/

theorem mem_narrowWidths_iff (k : Nat) : k ∈ narrowWidths ↔ ∃ v : Width, v.bits = k ∧ v ≠ .w2048 := by
  constructor
  · intro hk
    fin_cases hk
    exacts [⟨.w8, rfl, by decide⟩, ⟨.w16, rfl, by decide⟩, ⟨.w32, rfl, by decide⟩, ⟨.w64, rfl, by decide⟩,
      ⟨.w128, rfl, by decide⟩, ⟨.w256, rfl, by decide⟩, ⟨.w512, rfl, by decide⟩, ⟨.w1024, rfl, by decide⟩]
  · rintro ⟨v, rfl, hv⟩
    cases v
    case w2048 => exact absurd rfl hv
    all_goals decide

/-- The source widths of `FROM_NARROW` are the family widths below `W`: 2048, the one width the list leaves out, is
below none. -/
theorem narrowLegal_iff (wd : Width) (k : Nat) :
    narrowLegal wd.bits k = true ↔ ∃ v : Width, v.bits = k ∧ v.bits < wd.bits := by
  have hlast : ∀ v : Width, v.bits < wd.bits → v ≠ .w2048 := by
    rintro v hv rfl
    exact absurd hv (Nat.not_lt.2 (bits_le wd))
  rw [narrowLegal, Bool.and_eq_true, decide_eq_true_iff, decide_eq_true_iff, mem_narrowWidths_iff]
  constructor
  · rintro ⟨⟨v, rfl, -⟩, hlt⟩
    exact ⟨v, rfl, hlt⟩
  · rintro ⟨v, rfl, hlt⟩
    exact ⟨⟨v, rfl, hlast v hlt⟩, hlt⟩

theorem zextTo_bitsAt_zero (n : Nat) (v : BitVec w) (k : Nat) :
    zextTo n (bitsAt v 0 k) = BitVec.ofNat n (v.toNat % 2 ^ k) := by
  rw [zextTo_eq_setWidth, bitsAt_zero_eq_setWidth, ← BitVec.ofNat_toNat, BitVec.toNat_setWidth]

/-- Settles O31: by `narrowLegal_iff`, the two branches of the operation. -/
theorem fromNarrowZeroExtendsOrRefuses : Obligations.FromNarrowZeroExtendsOrRefuses := by
  intro s
  rw [← narrowLegal_iff]
  refine ⟨fun hlegal => exec_of_opResult ?_, fun hlegal => exec_of_opResult (if_neg hlegal)⟩
  rw [← zextTo_bitsAt_zero]
  exact if_pos hlegal

/-! Scalars on `RS`. -/

theorem scalarOut_eq_setWidth {k : Nat} (v : BitVec k) : scalarOut v = v.setWidth 128 := zextTo_eq_setWidth 128 v

/-- A scalar as wide as `RS` is put there as it is. -/
theorem scalarOut_eq_self (v : BitVec 128) : scalarOut v = v := by
  rw [scalarOut_eq_setWidth, BitVec.setWidth_eq]

theorem scalarOut_zextTo (k : Nat) (v : BitVec w) : scalarOut (zextTo k v) = BitVec.ofNat 128 (v.toNat % 2 ^ k) := by
  rw [zextTo_eq_setWidth, ← bitsAt_zero_eq_setWidth]
  exact zextTo_bitsAt_zero 128 v k

/-- `bv_k(s(v))`, whether `k` is below the width of `v` or not. -/
theorem sextTo_eq_ofInt (k : Nat) (v : BitVec w) : sextTo k v = BitVec.ofInt k v.toInt := sextTo_eq_signExtend k v

/-- Sign and zero extension part only above the width of `v`. -/
theorem sextTo_eq_zextTo {k : Nat} (hk : k ≤ w) (v : BitVec w) : sextTo k v = zextTo k v := by
  rw [sextTo_eq_signExtend, zextTo_eq_setWidth, BitVec.signExtend_eq_setWidth_of_le _ hk]

/-- Every `TO_U<k>` writes the low `k` bits of `A`, zero-extended (40_constants_conversion.md R119 to R123). -/
theorem opResult_toUnsigned {i : Instr} {k : Nat}
    (hik : (i, k) ∈ [(Instr.toU8, 8), (.toU16, 16), (.toU32, 32), (.toU64, 64), (.toU128, 128)]) (x : Command w) :
    opResult i x = { rs := scalarOut (zextTo k x.a) } := by
  have h128 : { rs := zextTo 128 x.a } = ({ rs := scalarOut (zextTo 128 x.a) } : Results w) := by
    rw [scalarOut_eq_self]
  fin_cases hik
  exacts [rfl, rfl, rfl, rfl, h128]

/-- Settles O32: by `opResult_toUnsigned`. -/
theorem toUnsignedScalars : Obligations.ToUnsignedScalars := by
  intro i k hik s
  have hop := opResult_toUnsigned hik s.cmd
  rw [scalarOut_zextTo] at hop
  exact exec_of_opResult hop

/-- Every `TO_I<k>` writes the `k`-bit sign extension or truncation of `A` (40_constants_conversion.md R124 to R128).
`TO_I8` truncates, which is the same, no width being below 8. -/
theorem opResult_toSigned {i : Instr} {k : Nat}
    (hik : (i, k) ∈ [(Instr.toI8, 8), (.toI16, 16), (.toI32, 32), (.toI64, 64), (.toI128, 128)]) (hw : 8 ≤ w)
    (x : Command w) : opResult i x = { rs := scalarOut (sextTo k x.a) } := by
  have h8 : { rs := scalarOut (zextTo 8 x.a) } = ({ rs := scalarOut (sextTo 8 x.a) } : Results w) := by
    rw [sextTo_eq_zextTo hw]
  have h128 : { rs := sextTo 128 x.a } = ({ rs := scalarOut (sextTo 128 x.a) } : Results w) := by
    rw [scalarOut_eq_self]
  fin_cases hik
  exacts [h8, rfl, rfl, rfl, h128]

/-- Settles O33: the two groups differ only in the extension, and for `k <= W` both truncate. -/
theorem toSignedScalars : Obligations.ToSignedScalars := by
  intro i j k hijk s
  have hi := opResult_toSigned (List.mem_map_of_mem (f := fun t => (t.1, t.2.2)) hijk) (eight_le_bits _) s.cmd
  have hj := opResult_toUnsigned (List.mem_map_of_mem (f := fun t => (t.2.1, t.2.2)) hijk) s.cmd
  constructor
  · rw [scalarOut_eq_setWidth, sextTo_eq_ofInt] at hi
    exact exec_of_opResult hi
  · intro hk
    rw [exec_of_opResult hi, exec_of_opResult hj, sextTo_eq_zextTo hk]

end Sys2Proof.Machine
end

section
/-! The two halves of a value (00_scope.md R3, R6): their bits, and the value as their join. -/

namespace Sys2Proof.Machine

variable {h : Nat}

theorem joinHalves_getLsbD (hi lo : BitVec h) (j : Nat) :
    (joinHalves hi lo).getLsbD j = if j < h then lo.getLsbD j else hi.getLsbD (j - h) :=
  BitVec.getLsbD_append

theorem joinHalves_hiHalf_loHalf (v : BitVec (h + h)) : joinHalves (hiHalf v) (loHalf v) = v := by
  apply BitVec.eq_of_getLsbD_eq
  intro j hj
  rw [joinHalves_getLsbD]
  split_ifs with hjh
  · simp [loHalf, bitsAt, hjh]
  · have hjh' : j - h < h := by omega
    simp [hiHalf, bitsAt, hjh', Nat.add_sub_cancel' (Nat.not_lt.1 hjh)]

/-- Bit `j` of a value, in the half that holds it (41_compare_bitwise.md R143). -/
theorem getLsbD_eq_halves (v : BitVec (h + h)) (j : Nat) :
    v.getLsbD j = if j < h then (loHalf v).getLsbD j else (hiHalf v).getLsbD (j - h) := by
  rw [← joinHalves_getLsbD, joinHalves_hiHalf_loHalf]

theorem loHalf_getLsbD (v : BitVec (h + h)) {j : Nat} (hj : j < h) : (loHalf v).getLsbD j = v.getLsbD j := by
  rw [getLsbD_eq_halves v, if_pos hj]

theorem hiHalf_getLsbD (v : BitVec (h + h)) (j : Nat) : (hiHalf v).getLsbD j = v.getLsbD (h + j) := by
  rw [getLsbD_eq_halves v, if_neg (by omega), Nat.add_sub_cancel_left]

theorem eq_iff_halves {a b : BitVec (h + h)} : a = b ↔ hiHalf a = hiHalf b ∧ loHalf a = loHalf b := by
  constructor
  · rintro rfl
    exact ⟨rfl, rfl⟩
  · rintro ⟨hhi, hlo⟩
    rw [← joinHalves_hiHalf_loHalf a, hhi, hlo, joinHalves_hiHalf_loHalf]

/-- The high half weighs `2^H`. -/
theorem u_eq_halves (v : BitVec (h + h)) : u v = (2 ^ h : Nat) * u (hiHalf v) + u (loHalf v) := by
  have hlo : u (loHalf v) = v.toNat % 2 ^ h := by simp [u, loHalf, bitsAt]
  have hhi : u (hiHalf v) = v.toNat / 2 ^ h := by
    have := Nat.div_lt_of_lt_mul (Nat.pow_add 2 h h ▸ v.isLt)
    simp only [u, hiHalf, bitsAt, BitVec.extractLsb'_toNat, Nat.shiftRight_eq_div_pow, Nat.mod_eq_of_lt this]
    norm_cast
  rw [hlo, hhi, u]
  push_cast
  exact (Int.mul_ediv_add_emod _ _).symm

end Sys2Proof.Machine
end

section
/-! Comparison (41_compare_bitwise.md R129 to R133). -/

namespace Sys2Proof.Machine

variable {w h : Nat}

theorem ordering_eq_ite (w : Nat) (x y : Int) :
    ordering w x y = if x < y then BitVec.ofInt w (-1) else if x = y then 0 else 1 := by
  rw [ordering, cMaxU_eq, ← ofInt_neg_one, cZero_eq, cOne_eq]
  rfl

theorem cmpUResult_eq (x : Command w) : cmpUResult x =
    { lo := if x.a.toNat < x.b.toNat then BitVec.ofInt w (-1) else if x.a.toNat = x.b.toNat then 0 else 1 } := by
  simp only [cmpUResult, ordering_eq_ite, u_eq_toNat, Nat.cast_lt, Nat.cast_inj]

theorem cmpSResult_eq (x : Command w) : cmpSResult x =
    { lo := if x.a.toInt < x.b.toInt then BitVec.ofInt w (-1) else if x.a.toInt = x.b.toInt then 0 else 1 } := by
  simp only [cmpSResult, ordering_eq_ite, sgn_eq_toInt]

theorem eqResult_eq (x : Command w) :
    eqResult x = { lo := if x.a = x.b then 1 else 0, flag := decide (x.a = x.b) } := by
  simp [eqResult, equalFlag, ofBool_eq]

/-- Settles O34: the results of the three operations in the terms of the statement. -/
theorem comparisons : Obligations.Comparisons := fun s =>
  ⟨exec_of_opResult (cmpUResult_eq s.cmd), exec_of_opResult (cmpSResult_eq s.cmd),
    exec_of_opResult (eqResult_eq s.cmd)⟩

/-! The order of two integers, on which both forms of the rules agree. -/

theorem ordering_eq_orderPattern (w : Nat) (x y : Int) : ordering w x y = orderPattern w (orderInt x y) := by
  unfold ordering orderInt
  split_ifs <;> rfl

theorem orderInt_of_lt {x y : Int} (hxy : x < y) : orderInt x y = .lt := if_pos hxy

theorem orderInt_of_gt {x y : Int} (hxy : y < x) : orderInt x y = .gt := by
  rw [orderInt, if_neg (by omega), if_neg (by omega)]

/-- The order of two integers is told from their difference. -/
theorem orderInt_congr {x y x' y' : Int} (hsub : x - y = x' - y') : orderInt x y = orderInt x' y' := by
  have hlt : x < y ↔ x' < y' := by omega
  have heq : x = y ↔ x' = y' := by omega
  simp only [orderInt, hlt, heq]

/-- The high halves decide where they differ: the low halves are below `2^H`. -/
theorem u_lt_of_hiHalf_lt {a b : BitVec (h + h)} (hab : u (hiHalf a) < u (hiHalf b)) : u a < u b := by
  have hlo : u (loHalf a) < (2 ^ h : Nat) := Int.ofNat_lt.2 (loHalf a).isLt
  have hlo' : 0 ≤ u (loHalf b) := Int.natCast_nonneg _
  have hstep : ((2 ^ h : Nat) : Int) * (u (hiHalf a) + 1) ≤ (2 ^ h : Nat) * u (hiHalf b) :=
    Int.mul_le_mul_of_nonneg_left (by omega) (Int.natCast_nonneg _)
  rw [u_eq_halves a, u_eq_halves b]
  linarith

theorem orderInt_u_eq_cmpUHalves (a b : BitVec (h + h)) : orderInt (u a) (u b) = cmpUHalves a b := by
  unfold cmpUHalves
  split_ifs with hhi
  · have hne : u (hiHalf a) ≠ u (hiHalf b) := fun hu => hhi (BitVec.eq_of_toNat_eq (Int.ofNat_inj.1 hu))
    rcases lt_or_gt_of_ne hne with hlt | hgt
    · rw [orderInt_of_lt hlt, orderInt_of_lt (u_lt_of_hiHalf_lt hlt)]
    · rw [orderInt_of_gt hgt, orderInt_of_gt (u_lt_of_hiHalf_lt hgt)]
  · rw [not_not] at hhi
    apply orderInt_congr
    rw [u_eq_halves a, u_eq_halves b, hhi]
    omega

theorem sgn_neg_of_msb {a : BitVec w} (ha : a.msb = true) : sgn a < 0 := by
  rw [sgn_eq_toInt]
  exact BitVec.toInt_neg_of_msb_true ha

theorem sgn_nonneg_of_msb {a : BitVec w} (ha : a.msb = false) : 0 ≤ sgn a := by
  rw [sgn_eq_toInt]
  exact BitVec.toInt_nonneg_of_msb_false ha

/-- Equal signs shift both values by the same amount. -/
theorem sgn_sub_sgn_of_msb_eq {a b : BitVec w} (hab : a.msb = b.msb) : sgn a - sgn b = u a - u b := by
  unfold sgn u
  rw [hab]
  split_ifs <;> omega

theorem orderInt_sgn_eq_cmpSHalves (a b : BitVec (h + h)) : orderInt (sgn a) (sgn b) = cmpSHalves a b := by
  unfold cmpSHalves
  rw [← orderInt_u_eq_cmpUHalves]
  cases ha : a.msb <;> cases hb : b.msb
  case true.false => exact orderInt_of_lt ((sgn_neg_of_msb ha).trans_le (sgn_nonneg_of_msb hb))
  case false.true => exact orderInt_of_gt ((sgn_neg_of_msb hb).trans_le (sgn_nonneg_of_msb ha))
  all_goals exact orderInt_congr (sgn_sub_sgn_of_msb_eq (ha.trans hb.symm))

theorem equalFlag_eq_eqHalves (a b : BitVec (h + h)) : equalFlag a b = eqHalves a b := by
  simp only [eqHalves, equalFlag, ← Bool.decide_and, eq_iff_halves]

/-- Settles O51: the order of the values is that of the high halves, or of the low halves where those are equal; signs
that differ decide a signed comparison. -/
theorem comparisonOfHalves : Obligations.ComparisonOfHalves := by
  intro h x _
  refine ⟨?_, ?_, equalFlag_eq_eqHalves x.a x.b⟩
  · rw [cmpUResult, ordering_eq_orderPattern, orderInt_u_eq_cmpUHalves]
  · rw [cmpSResult, ordering_eq_orderPattern, orderInt_sgn_eq_cmpSHalves]

end Sys2Proof.Machine
end

section
/-! The bitwise operations (41_compare_bitwise.md R134 to R138). -/

namespace Sys2Proof.Machine

variable {h : Nat}

/-- Settles O35: the library's bit-by-bit readings of the four operations. -/
theorem bitwiseOperations : Obligations.BitwiseOperations := by
  intro s
  refine ⟨_, _, _, _, exec_of_opResult rfl, exec_of_opResult rfl, exec_of_opResult rfl, exec_of_opResult rfl,
    fun j hj => ⟨BitVec.getLsbD_and, BitVec.getLsbD_or, BitVec.getLsbD_xor, ?_⟩⟩
  rw [BitVec.getLsbD_not, decide_eq_true hj, Bool.true_and]
  rfl

/-- An operation that works bit by bit, through `g` at every width, works half by half (41_compare_bitwise.md R134). -/
theorem bitwiseHalves_eq {g : Bool → Bool → Bool} {f : BitVec h → BitVec h → BitVec h} {a b c : BitVec (h + h)}
    (hf : ∀ (v v' : BitVec h) (j : Nat), j < h → (f v v').getLsbD j = g (v.getLsbD j) (v'.getLsbD j))
    (hc : ∀ j, j < h + h → c.getLsbD j = g (a.getLsbD j) (b.getLsbD j)) : c = bitwiseHalves f a b := by
  apply BitVec.eq_of_getLsbD_eq
  intro j hj
  rw [hc j hj, bitwiseHalves, joinHalves_getLsbD, getLsbD_eq_halves a, getLsbD_eq_halves b]
  split_ifs with hjh
  · exact (hf _ _ j hjh).symm
  · exact (hf _ _ (j - h) (by omega)).symm

/-- Settles O52: `bitwiseHalves_eq` with each operation's own function of two bits. -/
theorem bitwiseOfHalves : Obligations.BitwiseOfHalves := by
  intro h x _
  have hand : x.a &&& x.b = bitwiseHalves (· &&& ·) x.a x.b :=
    bitwiseHalves_eq (g := and) (fun _ _ _ _ => BitVec.getLsbD_and) fun _ _ => BitVec.getLsbD_and
  have hor : x.a ||| x.b = bitwiseHalves (· ||| ·) x.a x.b :=
    bitwiseHalves_eq (g := or) (fun _ _ _ _ => BitVec.getLsbD_or) fun _ _ => BitVec.getLsbD_or
  have hxor : x.a ^^^ x.b = bitwiseHalves (· ^^^ ·) x.a x.b :=
    bitwiseHalves_eq (g := xor) (fun _ _ _ _ => BitVec.getLsbD_xor) fun _ _ => BitVec.getLsbD_xor
  have hnot : ~~~x.a = bitwiseHalves (fun v _ => ~~~v) x.a x.b :=
    bitwiseHalves_eq (g := fun p _ => !p) (fun _ _ _ hj => by simp [hj]) fun _ hj => by simp [hj]
  rw [← hand, ← hor, ← hxor, ← hnot]
  exact ⟨rfl, rfl, rfl, rfl⟩

end Sys2Proof.Machine
end

section
/-! Bit test, set and clear (41_compare_bitwise.md R143, R145 to R147). -/

namespace Sys2Proof.Machine

variable {w h : Nat}

theorem cOne_shiftLeft_getLsbD (i : Nat) {j : Nat} (hj : j < w) : (cOne w <<< i).getLsbD j = decide (j = i) := by
  rw [cOne_eq, ← BitVec.twoPow_eq, BitVec.getLsbD_twoPow, ← Bool.decide_and]
  exact decide_eq_decide.2 ⟨fun hij => hij.2.symm, fun hji => ⟨hji ▸ hj, hji.symm⟩⟩

theorem setBit_getLsbD (v : BitVec w) (i : Nat) {j : Nat} (hj : j < w) :
    (setBit v i).getLsbD j = (v.getLsbD j || decide (j = i)) := by
  rw [setBit, BitVec.getLsbD_or, cOne_shiftLeft_getLsbD i hj]

theorem clearBit_getLsbD (v : BitVec w) (i : Nat) {j : Nat} (hj : j < w) :
    (clearBit v i).getLsbD j = (v.getLsbD j && decide (j ≠ i)) := by
  rw [clearBit, BitVec.getLsbD_and, BitVec.getLsbD_not, cOne_shiftLeft_getLsbD i hj, decide_eq_true hj,
    Bool.true_and, decide_not]

theorem setBit_getLsbD_eq_ite (v : BitVec w) (i : Nat) {j : Nat} (hj : j < w) :
    (setBit v i).getLsbD j = if j = i then true else v.getLsbD j := by
  rw [setBit_getLsbD v i hj]
  by_cases hji : j = i
  · rw [if_pos hji, decide_eq_true hji, Bool.or_true]
  · rw [if_neg hji, decide_eq_false hji, Bool.or_false]

theorem clearBit_getLsbD_eq_ite (v : BitVec w) (i : Nat) {j : Nat} (hj : j < w) :
    (clearBit v i).getLsbD j = if j = i then false else v.getLsbD j := by
  rw [clearBit_getLsbD v i hj]
  by_cases hji : j = i
  · rw [if_pos hji, decide_eq_false (not_not.2 hji), Bool.and_false]
  · rw [if_neg hji, decide_eq_true hji, Bool.and_true]

theorem bitResult_eq_ite (x : Command w) : bitResult x =
    { lo := if x.a.getLsbD (x.n.toNat % w) then 1 else 0, flag := x.a.getLsbD (x.n.toNat % w) } := by
  rw [bitResult, ofBool_eq]
  rfl

theorem bitSetResult_eq (x : Command w) : bitSetResult x = { lo := setBit x.a (x.n.toNat % w) } := rfl

theorem bitClrResult_eq (x : Command w) : bitClrResult x = { lo := clearBit x.a (x.n.toNat % w) } := rfl

/-- Settles O37: `setBit_getLsbD` and `clearBit_getLsbD` at the index. -/
theorem bitTestSetClear : Obligations.BitTestSetClear := by
  intro s
  exact ⟨_, _, exec_of_opResult (bitResult_eq_ite s.cmd), exec_of_opResult (bitSetResult_eq s.cmd),
    exec_of_opResult (bitClrResult_eq s.cmd), fun j hj => ⟨setBit_getLsbD _ _ hj, clearBit_getLsbD _ _ hj⟩⟩

/-- A change that gives bit `i` the value `t` and keeps the others does so in the half that holds bit `i`. -/
theorem changeBitHalves_getLsbD {f : BitVec h → Nat → BitVec h} {t : Bool}
    (hf : ∀ (v : BitVec h) (i j : Nat), j < h → (f v i).getLsbD j = if j = i then t else v.getLsbD j)
    (a : BitVec (h + h)) (i : Nat) {j : Nat} (hj : j < h + h) :
    (changeBitHalves f a i).getLsbD j = if j = i then t else a.getLsbD j := by
  unfold changeBitHalves
  rw [getLsbD_eq_halves a]
  by_cases hi : i < h <;> by_cases hjh : j < h
  · rw [if_pos hi, joinHalves_getLsbD, if_pos hjh, if_pos hjh, hf _ _ _ hjh]
  · rw [if_pos hi, joinHalves_getLsbD, if_neg hjh, if_neg hjh, if_neg (by omega)]
  · rw [if_neg hi, joinHalves_getLsbD, if_pos hjh, if_pos hjh, if_neg (by omega)]
  · have hsub : j - h = i - h ↔ j = i := by omega
    rw [if_neg hi, joinHalves_getLsbD, if_neg hjh, if_neg hjh, hf _ _ _ (by omega)]
    simp only [hsub]

theorem setBit_eq_changeBitHalves (a : BitVec (h + h)) (i : Nat) : setBit a i = changeBitHalves setBit a i := by
  apply BitVec.eq_of_getLsbD_eq
  intro j hj
  rw [setBit_getLsbD_eq_ite a i hj, changeBitHalves_getLsbD (fun v i _ => setBit_getLsbD_eq_ite v i) a i hj]

theorem clearBit_eq_changeBitHalves (a : BitVec (h + h)) (i : Nat) : clearBit a i = changeBitHalves clearBit a i := by
  apply BitVec.eq_of_getLsbD_eq
  intro j hj
  rw [clearBit_getLsbD_eq_ite a i hj, changeBitHalves_getLsbD (fun v i _ => clearBit_getLsbD_eq_ite v i) a i hj]

/-- Settles O53: `getLsbD_eq_halves` for the test, `changeBitHalves_getLsbD` for the two changes. -/
theorem bitIndexOfHalves : Obligations.BitIndexOfHalves := by
  intro h x _
  refine ⟨getLsbD_eq_halves x.a _, ?_, ?_⟩
  · rw [bitSetResult_eq, setBit_eq_changeBitHalves]
  · rw [bitClrResult_eq, clearBit_eq_changeBitHalves]

end Sys2Proof.Machine
end

section
/-! The bit scans (41_compare_bitwise.md R139 to R142, R144): `CLZ` from the top bit down and `CTZ` from bit 0 up are
both the place of the first 1 bit among `W` of them. -/

namespace Sys2Proof.Machine

variable {w h : Nat}

/-- `c` is the first place below `n` where `p` holds, and `n` where there is none. -/
def FirstTrue (p : Nat → Bool) (n c : Nat) : Prop :=
  c ≤ n ∧ (∀ j, j < c → p j = false) ∧ (c < n → p c = true)

section
variable {p q : Nat → Bool} {n m c d : Nat}

theorem FirstTrue.unique (hc : FirstTrue p n c) (hd : FirstTrue p n d) : c = d := by
  obtain ⟨hcn, hcf, hct⟩ := hc
  obtain ⟨hdn, hdf, hdt⟩ := hd
  rcases lt_trichotomy c d with hlt | heq | hgt
  · exact absurd (hct (hlt.trans_le hdn)) (by simp [hdf c hlt])
  · exact heq
  · exact absurd (hdt (hgt.trans_le hcn)) (by simp [hcf d hgt])

theorem FirstTrue.congr (hc : FirstTrue p n c) (hpq : ∀ j, j < n → p j = q j) : FirstTrue q n c := by
  obtain ⟨hcn, hcf, hct⟩ := hc
  exact ⟨hcn, fun j hj => (hpq j (by omega)).symm.trans (hcf j hj),
    fun hlt => (hpq c hlt).symm.trans (hct hlt)⟩

theorem FirstTrue.eq_length_iff (hc : FirstTrue p n c) : c = n ↔ ∀ j, j < n → p j = false := by
  obtain ⟨hcn, hcf, hct⟩ := hc
  constructor
  · rintro rfl
    exact hcf
  · intro hall
    by_contra hne
    have hlt : c < n := by omega
    exact absurd (hct hlt) (by simp [hall c hlt])

/-- The search goes on in a second stretch where the first holds none. -/
theorem FirstTrue.append (hc : FirstTrue p n c) (hd : FirstTrue (fun j => p (n + j)) m d) :
    FirstTrue p (n + m) (if c = n then n + d else c) := by
  obtain ⟨hcn, hcf, hct⟩ := hc
  obtain ⟨hdm, hdf, hdt⟩ := hd
  split_ifs with hcase
  · subst hcase
    refine ⟨by omega, fun j hj => ?_, fun hlt => hdt (by omega)⟩
    by_cases hjc : j < c
    · exact hcf j hjc
    · obtain ⟨k, rfl⟩ := Nat.exists_eq_add_of_le (Nat.not_lt.1 hjc)
      exact hdf k (by omega)
  · exact ⟨by omega, hcf, fun _ => hct (by omega)⟩

end

theorem zerosBelow_firstTrue (v : BitVec w) : FirstTrue v.getMsbD w (zerosBelow v w) :=
  FirstTrue.congr (zerosBelow_spec v w) fun j hj => by simp [BitVec.getMsbD, hj]

theorem zerosFrom_firstTrue (v : BitVec w) : FirstTrue v.getLsbD w (zerosFrom v 0 w) :=
  FirstTrue.congr (zerosFrom_spec v w 0) fun j _ => by rw [Nat.zero_add]

/-- A count up to `W` fits in `W` bits (41_compare_bitwise.md R144). -/
theorem bv_toNat_of_le {n : Nat} (hn : n ≤ w) : (bv w n).toNat = n := by
  rw [bv_natCast, BitVec.toNat_ofNat, Nat.mod_eq_of_lt (hn.trans_lt Nat.lt_two_pow_self)]

/-- Settles O36: the counts of `zerosBelow_firstTrue`, `zerosFrom_firstTrue` and `onesBelow_spec` are not wrapped. -/
theorem bitScans : Obligations.BitScans := by
  intro s
  obtain ⟨hcw, hcf, hct⟩ := zerosBelow_firstTrue s.regs.al
  obtain ⟨hdw, hdf, hdt⟩ := zerosFrom_firstTrue s.regs.al
  obtain ⟨hpw, hpl⟩ := onesBelow_spec s.regs.al s.bits
  refine ⟨bv _ (zerosBelow s.regs.al _), bv _ (zerosFrom s.regs.al 0 _), bv _ (popcount s.regs.al),
    exec_of_opResult rfl, exec_of_opResult rfl, exec_of_opResult rfl, ?_⟩
  rw [bv_toNat_of_le hcw, bv_toNat_of_le hdw, popcount, bv_toNat_of_le hpw]
  exact ⟨hcw, hcf, hct, hdw, hdf, hdt, hpw, hpl⟩

/-! The scans on halves. -/

theorem hiHalf_getMsbD (v : BitVec (h + h)) {j : Nat} (hj : j < h) : (hiHalf v).getMsbD j = v.getMsbD j := by
  rw [BitVec.getMsbD, BitVec.getMsbD, getLsbD_eq_halves v, if_neg (by omega), decide_eq_true hj,
    decide_eq_true (by omega), show h + h - 1 - j - h = h - 1 - j by omega]

theorem loHalf_getMsbD (v : BitVec (h + h)) {j : Nat} (hj : j < h) : (loHalf v).getMsbD j = v.getMsbD (h + j) := by
  rw [BitVec.getMsbD, BitVec.getMsbD, getLsbD_eq_halves v, if_pos (by omega), decide_eq_true hj,
    decide_eq_true (by omega), show h + h - 1 - (h + j) = h - 1 - j by omega]

theorem zerosBelow_eq_width_iff (v : BitVec w) : zerosBelow v w = w ↔ v = cZero w := by
  rw [(zerosBelow_firstTrue v).eq_length_iff, cZero_eq]
  constructor
  · exact fun hall => BitVec.eq_of_getMsbD_eq fun j hj => by rw [hall j hj, BitVec.getMsbD_zero]
  · rintro rfl j -
    exact BitVec.getMsbD_zero

theorem zerosFrom_eq_width_iff (v : BitVec w) : zerosFrom v 0 w = w ↔ v = cZero w := by
  rw [(zerosFrom_firstTrue v).eq_length_iff, cZero_eq]
  constructor
  · exact fun hall => BitVec.eq_of_getLsbD_eq fun j hj => by rw [hall j hj, BitVec.getLsbD_zero]
  · rintro rfl j -
    exact BitVec.getLsbD_zero

theorem zerosBelow_eq_clzHalves (a : BitVec (h + h)) : zerosBelow a (h + h) = clzHalves a := by
  have hhi := (zerosBelow_firstTrue (hiHalf a)).congr fun j => hiHalf_getMsbD a
  have hlo := (zerosBelow_firstTrue (loHalf a)).congr fun j => loHalf_getMsbD a
  rw [(zerosBelow_firstTrue a).unique (hhi.append hlo)]
  simp only [zerosBelow_eq_width_iff, clzHalves]

theorem zerosFrom_eq_ctzHalves (a : BitVec (h + h)) : zerosFrom a 0 (h + h) = ctzHalves a := by
  have hlo := (zerosFrom_firstTrue (loHalf a)).congr fun j => loHalf_getLsbD a
  have hhi := (zerosFrom_firstTrue (hiHalf a)).congr fun j _ => hiHalf_getLsbD a j
  rw [(zerosFrom_firstTrue a).unique (hlo.append hhi)]
  simp only [zerosFrom_eq_width_iff, ctzHalves]

/-- The 1 bits of `v` below `m`, and those of the `k` bits of `y` that stand from bit `m` of `v` on. -/
theorem onesBelow_add {y : BitVec h} {v : BitVec w} {m : Nat} : ∀ {k : Nat},
    (∀ j, j < k → y.getLsbD j = v.getLsbD (m + j)) → onesBelow v (m + k) = onesBelow v m + onesBelow y k
  | 0, _ => rfl
  | k + 1, hy => by
    have ih := onesBelow_add (k := k) fun j hj => hy j (by omega)
    rw [← Nat.add_assoc, onesBelow, onesBelow, ih, hy k (by omega), Nat.add_assoc]

theorem popcount_eq_cpopHalves (a : BitVec (h + h)) : popcount a = cpopHalves a := by
  have hlo : onesBelow a h = popcount (loHalf a) := by
    have := onesBelow_add (v := a) (m := 0) fun j hj => (loHalf_getLsbD a hj).trans (by rw [Nat.zero_add])
    rwa [Nat.zero_add, onesBelow, Nat.zero_add] at this
  have hhi := onesBelow_add (v := a) (m := h) (k := h) fun j _ => hiHalf_getLsbD a j
  rw [popcount, hhi, hlo, cpopHalves, Nat.add_comm]
  rfl

/-- Settles O54: each whole-value count is the count on halves. -/
theorem bitScansOfHalves : Obligations.BitScansOfHalves := by
  intro h x _
  refine ⟨?clz, ?ctz, ?cpop⟩
  case clz => rw [clzResult, zerosBelow_eq_clzHalves, bv_natCast]
  case ctz => rw [ctzResult, zerosFrom_eq_ctzHalves, bv_natCast]
  case cpop => rw [cpopResult, popcount_eq_cpopHalves, bv_natCast]

end Sys2Proof.Machine
end

section
/-! Shifts, sign and zero extension (42_shift_extend.md R148 to R155). -/

namespace Sys2Proof.Machine

variable {w h : Nat}

theorem shiftLeft_eq_ofNat (v : BitVec w) (k : Nat) : v <<< k = BitVec.ofNat w (v.toNat * 2 ^ k) := by
  apply BitVec.eq_of_toNat_eq
  rw [BitVec.toNat_shiftLeft, Nat.shiftLeft_eq, BitVec.toNat_ofNat]

theorem ushiftRight_eq_ofNat (v : BitVec w) (k : Nat) : v >>> k = BitVec.ofNat w (v.toNat / 2 ^ k) := by
  rw [← Nat.shiftRight_eq_div_pow, ← BitVec.toNat_ushiftRight, BitVec.ofNat_toNat, BitVec.setWidth_eq]

/-- Settles O38: each shift is the pattern of a product or of a floored quotient; every width is `2^LOG2W`. -/
theorem shifts : Obligations.Shifts := by
  rintro s k rfl
  refine ⟨?amount, exec_of_opResult ?shl, exec_of_opResult ?shr, exec_of_opResult ?sra⟩
  case amount => rw [← bits_eq_two_pow]
  case shl => rw [← shiftLeft_eq_ofNat]; rfl
  case shr => rw [← ushiftRight_eq_ofNat]; rfl
  case sra => rw [← sshiftRight_eq_ofInt]; rfl

/-! Extension from bit `p = u(N) mod W`: the shift `t = W - 1 - p` leaves the `p + 1` bits `A[p:0]`. -/

theorem index_lt (hw : 0 < w) (x : Command w) : index x < w := Nat.mod_lt _ hw

theorem extendShift_eq (x : Command w) : extendShift x = w - (index x + 1) := by
  rw [extendShift, Nat.sub_sub, Nat.add_comm]

theorem sextResult_eq (hw : 0 < w) (x : Command w) :
    sextResult x = { lo := (x.a.setWidth (index x + 1)).signExtend w } := by
  rw [← shiftLeft_sshiftRight_eq_signExtend (by omega) (index_lt hw x), ← extendShift_eq]
  rfl

theorem zextResult_eq (hw : 0 < w) (x : Command w) :
    zextResult x = { lo := (x.a.setWidth (index x + 1)).setWidth w } := by
  rw [← shiftLeft_ushiftRight_eq_setWidth (index_lt hw x), ← extendShift_eq]
  rfl

/-- Settles O39: `sextResult_eq` and `zextResult_eq` on the latched command. -/
theorem extensionFromABit : Obligations.ExtensionFromABit := by
  rintro s p rfl
  exact ⟨exec_of_opResult (sextResult_eq (bits_pos _) s.cmd), exec_of_opResult (zextResult_eq (bits_pos _) s.cmd)⟩

theorem bits_dvd_two_pow_32 (wd : Width) : wd.bits ∣ 2 ^ 32 := by cases wd <;> decide

/-- Both readings of the shift agree, because `W` divides `2^32` (42_shift_extend.md R155). -/
theorem extendShiftWrapped_eq {wd : Width} (x : Command wd.bits) : extendShiftWrapped x = extendShift x := by
  have hw := bits_pos wd
  have hle := bits_le wd
  have hn := x.n.isLt
  have hp := index_lt hw x
  obtain ⟨c, hc⟩ := bits_dvd_two_pow_32 wd
  have hdiv : wd.bits * (x.n.toNat / wd.bits) + index x = x.n.toNat := Nat.div_add_mod _ _
  have hsub : 2 ^ 32 - x.n.toNat + (wd.bits - 1) = extendShift x + wd.bits * (c - x.n.toNat / wd.bits) := by
    rw [Nat.mul_sub, ← hc, extendShift]
    omega
  rw [extendShiftWrapped, BitVec.toNat_sub, BitVec.toNat_ofNat, Nat.mod_eq_of_lt (a := wd.bits - 1) (by omega),
    Nat.mod_mod_of_dvd _ (bits_dvd_two_pow_32 wd), hsub, Nat.add_mul_mod_self_left, Nat.mod_eq_of_lt]
  rw [extendShift]
  omega

/-- Settles O40: `t` is `extendShift`, and `extendShiftWrapped_eq` gives its other reading. -/
theorem extensionShiftsTwice : Obligations.ExtensionShiftsTwice := by
  rintro wd x t rfl
  have hlt : wd.bits - 1 - x.n.toNat % wd.bits < wd.bits := by
    have := bits_pos wd
    omega
  exact ⟨hlt, extendShiftWrapped_eq x, rfl, rfl⟩

/-! The two halves of a shifted value (42_shift_extend.md R149). -/

theorem eq_joinHalves {v : BitVec (h + h)} {hi lo : BitVec h} (hhi : hiHalf v = hi) (hlo : loHalf v = lo) :
    v = joinHalves hi lo := by
  rw [← hhi, ← hlo, joinHalves_hiHalf_loHalf]

/-- The bits that cross from one half into the other: `H` bits of `a`, from bit `m` on. -/
theorem crossHalves_getLsbD (a : BitVec (h + h)) {m j : Nat} (hm : m ≤ h) (hj : j < h) :
    ((loHalf a >>> m) ||| (hiHalf a <<< (h - m))).getLsbD j = a.getLsbD (m + j) := by
  rw [BitVec.getLsbD_or, BitVec.getLsbD_ushiftRight, BitVec.getLsbD_shiftLeft, getLsbD_eq_halves a]
  split_ifs with hmj
  · simp [show j < h - m by omega]
  · rw [BitVec.getLsbD_of_ge _ _ (by omega), show j - (h - m) = m + j - h by omega]
    simp [hj, show ¬ j < h - m by omega]

theorem loHalf_shiftLeft (a : BitVec (h + h)) (k : Nat) : loHalf (a <<< k) = loHalf a <<< k := by
  apply BitVec.eq_of_getLsbD_eq
  intro j hj
  rw [loHalf_getLsbD _ hj, BitVec.getLsbD_shiftLeft, BitVec.getLsbD_shiftLeft, loHalf_getLsbD a (by omega)]
  simp [hj, show j < h + h by omega]

theorem hiHalf_shiftLeft_of_lt (a : BitVec (h + h)) {k : Nat} (hk : k < h) :
    hiHalf (a <<< k) = (hiHalf a <<< k) ||| (loHalf a >>> (h - k)) := by
  apply BitVec.eq_of_getLsbD_eq
  intro j hj
  have hcross := crossHalves_getLsbD a (Nat.sub_le h k) hj
  rw [Nat.sub_sub_self hk.le, BitVec.or_comm] at hcross
  rw [hcross, hiHalf_getLsbD, show h + j = k + (h - k + j) by omega, getLsbD_shiftLeft_add a (by omega)]

theorem hiHalf_shiftLeft_of_le (a : BitVec (h + h)) {k : Nat} (hk : h ≤ k) :
    hiHalf (a <<< k) = loHalf a <<< (k - h) := by
  apply BitVec.eq_of_getLsbD_eq
  intro j hj
  rw [hiHalf_getLsbD, BitVec.getLsbD_shiftLeft, BitVec.getLsbD_shiftLeft, loHalf_getLsbD a (by omega),
    show h + j - k = j - (k - h) by omega]
  simp [hj, show h + j < k ↔ j < k - h by omega]

theorem hiHalf_ushiftRight (a : BitVec (h + h)) (k : Nat) : hiHalf (a >>> k) = hiHalf a >>> k := by
  apply BitVec.eq_of_getLsbD_eq
  intro j _
  rw [hiHalf_getLsbD, BitVec.getLsbD_ushiftRight, BitVec.getLsbD_ushiftRight, hiHalf_getLsbD, Nat.add_left_comm]

theorem loHalf_ushiftRight_of_lt (a : BitVec (h + h)) {k : Nat} (hk : k < h) :
    loHalf (a >>> k) = (loHalf a >>> k) ||| (hiHalf a <<< (h - k)) := by
  apply BitVec.eq_of_getLsbD_eq
  intro j hj
  rw [loHalf_getLsbD _ hj, BitVec.getLsbD_ushiftRight, crossHalves_getLsbD a hk.le hj]

theorem loHalf_ushiftRight_of_le (a : BitVec (h + h)) {k : Nat} (hk : h ≤ k) :
    loHalf (a >>> k) = hiHalf a >>> (k - h) := by
  apply BitVec.eq_of_getLsbD_eq
  intro j hj
  rw [loHalf_getLsbD _ hj, BitVec.getLsbD_ushiftRight, BitVec.getLsbD_ushiftRight, hiHalf_getLsbD,
    show h + (k - h + j) = k + j by omega]

theorem msb_hiHalf (a : BitVec (h + h)) : (hiHalf a).msb = a.msb := by
  obtain rfl | hh := Nat.eq_zero_or_pos h
  · rw [BitVec.of_length_zero (x := hiHalf a), BitVec.of_length_zero (x := a)]
  · rw [BitVec.msb_eq_getLsbD_last, BitVec.msb_eq_getLsbD_last, hiHalf_getLsbD, ← Nat.add_sub_assoc hh]

theorem sshiftRight_getLsbD_of_lt (v : BitVec w) (k : Nat) {j : Nat} (hj : j < w) :
    (v.sshiftRight k).getLsbD j = if k + j < w then v.getLsbD (k + j) else v.msb := by
  rw [BitVec.getLsbD_sshiftRight, decide_eq_false (Nat.not_le.2 hj), Bool.not_false, Bool.true_and]

/-- An arithmetic shift by the width or more leaves copies of the sign bit. -/
theorem sshiftRight_eq_fill (v : BitVec w) {k : Nat} (hk : w ≤ k) :
    v.sshiftRight k = if v.msb then cMaxU w else cZero w := by
  rw [cMaxU_eq, cZero_eq]
  split_ifs with hv
  · rw [BitVec.sshiftRight_eq_of_msb_true hv, BitVec.ushiftRight_eq_zero hk, BitVec.not_zero]
  · rw [BitVec.sshiftRight_eq_of_msb_false (Bool.eq_false_of_not_eq_true hv), BitVec.ushiftRight_eq_zero hk]

/-- The bits of the shifted high half, in the whole value. -/
theorem sshiftRight_hiHalf_getLsbD (a : BitVec (h + h)) (k : Nat) {j : Nat} (hj : j < h) :
    ((hiHalf a).sshiftRight k).getLsbD j = if h + (k + j) < h + h then a.getLsbD (h + (k + j)) else a.msb := by
  rw [sshiftRight_getLsbD_of_lt _ k hj, hiHalf_getLsbD, msb_hiHalf]
  simp only [Nat.add_lt_add_iff_left]

theorem hiHalf_sshiftRight (a : BitVec (h + h)) (k : Nat) :
    hiHalf (a.sshiftRight k) = (hiHalf a).sshiftRight k := by
  apply BitVec.eq_of_getLsbD_eq
  intro j hj
  rw [hiHalf_getLsbD, sshiftRight_getLsbD_of_lt a k (by omega), sshiftRight_hiHalf_getLsbD a k hj,
    Nat.add_left_comm h k j]

/-- A shift by less than `H` brings no copy of the sign into the low half. -/
theorem loHalf_sshiftRight_of_lt (a : BitVec (h + h)) {k : Nat} (hk : k < h) :
    loHalf (a.sshiftRight k) = (loHalf a >>> k) ||| (hiHalf a <<< (h - k)) := by
  apply BitVec.eq_of_getLsbD_eq
  intro j hj
  rw [loHalf_getLsbD _ hj, crossHalves_getLsbD a hk.le hj, sshiftRight_getLsbD_of_lt a k (by omega),
    if_pos (by omega)]

theorem loHalf_sshiftRight_of_le (a : BitVec (h + h)) {k : Nat} (hk : h ≤ k) :
    loHalf (a.sshiftRight k) = (hiHalf a).sshiftRight (k - h) := by
  apply BitVec.eq_of_getLsbD_eq
  intro j hj
  rw [loHalf_getLsbD _ hj, sshiftRight_getLsbD_of_lt a k (by omega), sshiftRight_hiHalf_getLsbD a (k - h) hj,
    show h + (k - h + j) = k + j by omega]

theorem shiftLeft_eq_shlHalves (a : BitVec (h + h)) (k : Nat) : a <<< k = shlHalves a k := by
  unfold shlHalves
  split_ifs with hzero hlt
  · rw [hzero, BitVec.shiftLeft_zero]
  · exact eq_joinHalves (hiHalf_shiftLeft_of_lt a hlt) (loHalf_shiftLeft a k)
  · have hle := Nat.not_lt.1 hlt
    refine eq_joinHalves (hiHalf_shiftLeft_of_le a hle) ?_
    rw [loHalf_shiftLeft, BitVec.shiftLeft_eq_zero hle, cZero_eq]

theorem ushiftRight_eq_shrHalves (a : BitVec (h + h)) (k : Nat) : a >>> k = shrHalves a k := by
  unfold shrHalves
  split_ifs with hzero hlt
  · rw [hzero, BitVec.ushiftRight_zero]
  · exact eq_joinHalves (hiHalf_ushiftRight a k) (loHalf_ushiftRight_of_lt a hlt)
  · have hle := Nat.not_lt.1 hlt
    refine eq_joinHalves ?_ (loHalf_ushiftRight_of_le a hle)
    rw [hiHalf_ushiftRight, BitVec.ushiftRight_eq_zero hle, cZero_eq]

theorem sshiftRight_eq_sraHalves (a : BitVec (h + h)) (k : Nat) : a.sshiftRight k = sraHalves a k := by
  unfold sraHalves
  split_ifs with hzero hlt
  · rw [hzero, BitVec.sshiftRight_zero]
  · exact eq_joinHalves (hiHalf_sshiftRight a k) (loHalf_sshiftRight_of_lt a hlt)
  · have hle := Nat.not_lt.1 hlt
    refine eq_joinHalves ?_ (loHalf_sshiftRight_of_le a hle)
    rw [hiHalf_sshiftRight, sshiftRight_eq_fill _ hle, msb_hiHalf, signFill]

/-- Settles O55: each whole-value shift by `index x` is the shift on halves. -/
theorem shiftsOfHalves : Obligations.ShiftsOfHalves := by
  intro h x _
  rw [← shiftLeft_eq_shlHalves, ← ushiftRight_eq_shrHalves, ← sshiftRight_eq_sraHalves]
  exact ⟨rfl, rfl, rfl⟩

end Sys2Proof.Machine
end

section
/-! The halves of a join (00_scope.md R6), and the range of `u(v)` (00_scope.md R7). -/

namespace Sys2Proof.Machine

variable {w h : Nat}

theorem hiHalf_joinHalves (hi lo : BitVec h) : hiHalf (joinHalves hi lo) = hi := by
  apply BitVec.eq_of_getLsbD_eq
  intro j _
  rw [hiHalf_getLsbD, joinHalves_getLsbD, if_neg (by omega), Nat.add_sub_cancel_left]

theorem loHalf_joinHalves (hi lo : BitVec h) : loHalf (joinHalves hi lo) = lo := by
  apply BitVec.eq_of_getLsbD_eq
  intro j hj
  rw [loHalf_getLsbD _ hj, joinHalves_getLsbD, if_pos hj]

theorem u_joinHalves (hi lo : BitVec h) : u (joinHalves hi lo) = (2 ^ h : Nat) * u hi + u lo := by
  rw [u_eq_halves, hiHalf_joinHalves, loHalf_joinHalves]

theorem u_nonneg (v : BitVec w) : 0 ≤ u v := Int.natCast_nonneg _

theorem u_lt (v : BitVec w) : u v < (2 ^ w : Nat) := Int.ofNat_lt.2 v.isLt

end Sys2Proof.Machine
end

section
/-! Addition and subtraction that wrap, flag or saturate (43_add_sub.md R160 to R169), through the exact integer. -/

namespace Sys2Proof.Machine

variable {w : Nat}

theorem addResult_eq (x : Command w) : addResult x = { lo := x.a + x.b } := by
  rw [addResult, bv_u_add_u]

theorem subResult_eq (x : Command w) : subResult x = { lo := x.a - x.b } := by
  rw [subResult, bv_u_sub_u]

/-- Settles O41: the two sums are one pattern, and `x + (0 - x) = 0`. -/
theorem wrappingAddSub : Obligations.WrappingAddSub := by
  intro s
  refine ⟨exec_of_opResult ?add, exec_of_opResult rfl, fun n c x => ?inverse⟩
  case add => rw [← bv_natCast, Int.natCast_add]; rfl
  case inverse =>
    have hx : x + (0 - x) = 0 := by
      rw [BitVec.sub_eq_add_neg, BitVec.add_comm, BitVec.add_assoc, BitVec.add_left_neg]
      exact BitVec.add_zero 0
    rw [addResult_eq, subResult_eq]
    exact hx

/-! The flags: an exact result that has no pattern of `W` bits. -/

theorem carryOut_eq (a b : BitVec w) : carryOut a b = decide (2 ^ w ≤ a.toNat + b.toNat) := by
  rw [carryOut, u_eq_toNat, u_eq_toNat, decide_eq_decide]
  norm_cast

theorem borrowOut_eq (a b : BitVec w) : borrowOut a b = decide (a.toNat < b.toNat) :=
  decide_eq_decide.2 Int.ofNat_lt

/-- No pattern of `W` bits has the signed value `i` (43_add_sub.md R157). -/
def signedOverflow (w : Nat) (i : Int) : Bool := decide (i < -(2 : Int) ^ (w - 1) ∨ (2 : Int) ^ (w - 1) ≤ i)

theorem addOverflow_eq (a b : BitVec w) : addOverflow a b (a + b) = signedOverflow w (a.toInt + b.toInt) := by
  have h : addOverflow a b (a + b) = a.saddOverflow b := by
    rw [BitVec.saddOverflow_eq, addOverflow, bne]
  rw [h, BitVec.saddOverflow, Bool.or_comm, ← Bool.decide_or]
  rfl

theorem subOverflow_eq (a b : BitVec w) : subOverflow a b (a - b) = signedOverflow w (a.toInt - b.toInt) := by
  have h : subOverflow a b (a - b) = a.ssubOverflow b := by
    rw [BitVec.ssubOverflow_eq, subOverflow]
    cases a.msb <;> cases b.msb <;> simp
  rw [h, BitVec.ssubOverflow, Bool.or_comm, ← Bool.decide_or]
  rfl

theorem addOvfUResult_eq (x : Command w) :
    addOvfUResult x = { lo := x.a + x.b, flag := decide (2 ^ w ≤ x.a.toNat + x.b.toNat) } := by
  rw [addOvfUResult, bv_u_add_u, carryOut_eq]

theorem subOvfUResult_eq (x : Command w) :
    subOvfUResult x = { lo := x.a - x.b, flag := decide (x.a.toNat < x.b.toNat) } := by
  rw [subOvfUResult, bv_u_sub_u, borrowOut_eq]

theorem addOvfSResult_eq (x : Command w) :
    addOvfSResult x = { lo := x.a + x.b, flag := signedOverflow w (x.a.toInt + x.b.toInt) } := by
  rw [addOvfSResult, bv_u_add_u, addOverflow_eq]

theorem subOvfSResult_eq (x : Command w) :
    subOvfSResult x = { lo := x.a - x.b, flag := signedOverflow w (x.a.toInt - x.b.toInt) } := by
  rw [subOvfSResult, bv_u_sub_u, subOverflow_eq]

/-- Settles O42: the results of the four operations in the terms of the statement. -/
theorem overflowingAddSub : Obligations.OverflowingAddSub := fun s =>
  ⟨exec_of_opResult (addOvfUResult_eq s.cmd), exec_of_opResult (subOvfUResult_eq s.cmd),
    exec_of_opResult (addOvfSResult_eq s.cmd), exec_of_opResult (subOvfSResult_eq s.cmd)⟩

/-! Saturation. -/

theorem addSatUResult_eq (x : Command w) : ∃ v : BitVec w,
    addSatUResult x = { lo := v, flag := decide (v.toNat ≠ x.a.toNat + x.b.toNat) } ∧
    v.toNat = min (x.a.toNat + x.b.toNat) (2 ^ w - 1) := by
  have hpow := Nat.two_pow_pos w
  have hv : (if decide (2 ^ w ≤ x.a.toNat + x.b.toNat) then cMaxU w else x.a + x.b).toNat =
      min (x.a.toNat + x.b.toNat) (2 ^ w - 1) := by
    simp only [decide_eq_true_eq]
    split_ifs with hcarry
    · rw [cMaxU_eq, BitVec.toNat_allOnes]
      omega
    · rw [BitVec.toNat_add_of_lt (by omega)]
      omega
  have hflag : decide (2 ^ w ≤ x.a.toNat + x.b.toNat) =
      decide (min (x.a.toNat + x.b.toNat) (2 ^ w - 1) ≠ x.a.toNat + x.b.toNat) := decide_eq_decide.2 (by omega)
  refine ⟨_, ?_, hv⟩
  rw [addSatUResult, addOvfUResult_eq, hv, ← hflag]

theorem subSatUResult_eq (x : Command w) : ∃ v : BitVec w,
    subSatUResult x = { lo := v, flag := decide ((v.toNat : Int) ≠ (x.a.toNat : Int) - x.b.toNat) } ∧
    v.toNat = x.a.toNat - x.b.toNat := by
  have hv : (if decide (x.a.toNat < x.b.toNat) then cMinU w else x.a - x.b).toNat = x.a.toNat - x.b.toNat := by
    simp only [decide_eq_true_eq]
    split_ifs with hborrow
    · rw [cMinU_eq, BitVec.toNat_zero]
      omega
    · exact BitVec.toNat_sub_of_le (Nat.not_lt.1 hborrow)
  have hflag : decide (x.a.toNat < x.b.toNat) =
      decide (((x.a.toNat - x.b.toNat : Nat) : Int) ≠ (x.a.toNat : Int) - x.b.toNat) :=
    decide_eq_decide.2 (by omega)
  refine ⟨_, ?_, hv⟩
  rw [subSatUResult, subOvfUResult_eq, hv, ← hflag]

/-- The signed value of `W` bits nearest to `i`. -/
def signedClamp (w : Nat) (i : Int) : Int := max (-(2 : Int) ^ (w - 1)) (min i ((2 : Int) ^ (w - 1) - 1))

theorem signedOverflow_eq_decide_ne (w : Nat) (i : Int) : signedOverflow w i = decide (signedClamp w i ≠ i) := by
  have hpow : 0 < (2 : Int) ^ (w - 1) := by positivity
  rw [signedOverflow, signedClamp, decide_eq_decide]
  omega

theorem signedLimit_toInt (hw : 0 < w) (a : BitVec w) :
    (signedLimit a).toInt = if a.toInt < 0 then -(2 : Int) ^ (w - 1) else (2 : Int) ^ (w - 1) - 1 := by
  have hpow : 0 < (2 : Int) ^ (w - 1) := by positivity
  rw [signedLimit, BitVec.msb_eq_toInt]
  simp only [decide_eq_true_eq]
  split_ifs
  · rw [cMinS_eq, BitVec.toInt_intMin_of_pos hw]
  · rw [cMaxS, bv_eq_ofInt, Nat.cast_pow, Nat.cast_ofNat]
    exact BitVec.toInt_ofInt_eq_self hw (by omega) (by omega)

/-- A signed saturation clamps the exact result `i`: where `i` is out of range, the first operand has its sign
(43_add_sub.md R168, R169), and elsewhere the wrapped result is exact. -/
theorem signedSaturation_toInt (hw : 0 < w) {a : BitVec w} {i : Int}
    (hlow : i < -(2 : Int) ^ (w - 1) → a.toInt < 0) (hhigh : (2 : Int) ^ (w - 1) ≤ i → 0 ≤ a.toInt) :
    (if signedOverflow w i then signedLimit a else BitVec.ofInt w i).toInt = signedClamp w i := by
  have hpow : 0 < (2 : Int) ^ (w - 1) := by positivity
  rw [signedOverflow, signedClamp]
  simp only [decide_eq_true_eq]
  split_ifs with hover
  · rw [signedLimit_toInt hw]
    split_ifs <;> omega
  · rw [BitVec.toInt_ofInt_eq_self hw (by omega) (by omega)]
    omega

theorem add_eq_ofInt_toInt (a b : BitVec w) : a + b = BitVec.ofInt w (a.toInt + b.toInt) := by
  rw [BitVec.ofInt_add, BitVec.ofInt_toInt, BitVec.ofInt_toInt]

theorem sub_eq_ofInt_toInt (a b : BitVec w) : a - b = BitVec.ofInt w (a.toInt - b.toInt) := by
  rw [Int.sub_eq_add_neg, BitVec.ofInt_add, BitVec.ofInt_neg, BitVec.ofInt_toInt, BitVec.ofInt_toInt,
    BitVec.sub_eq_add_neg]

theorem addSatSResult_eq (hw : 0 < w) (x : Command w) : ∃ v : BitVec w,
    addSatSResult x = { lo := v, flag := decide (v.toInt ≠ x.a.toInt + x.b.toInt) } ∧
    v.toInt = signedClamp w (x.a.toInt + x.b.toInt) := by
  have hlow := x.b.le_toInt
  have hhigh := x.b.toInt_lt
  have hv := signedSaturation_toInt hw (a := x.a) (i := x.a.toInt + x.b.toInt) (by omega) (by omega)
  refine ⟨_, ?_, hv⟩
  rw [addSatSResult, addOvfSResult_eq, add_eq_ofInt_toInt, hv, ← signedOverflow_eq_decide_ne]

theorem subSatSResult_eq (hw : 0 < w) (x : Command w) : ∃ v : BitVec w,
    subSatSResult x = { lo := v, flag := decide (v.toInt ≠ x.a.toInt - x.b.toInt) } ∧
    v.toInt = signedClamp w (x.a.toInt - x.b.toInt) := by
  have hlow := x.b.le_toInt
  have hhigh := x.b.toInt_lt
  have hv := signedSaturation_toInt hw (a := x.a) (i := x.a.toInt - x.b.toInt) (by omega) (by omega)
  refine ⟨_, ?_, hv⟩
  rw [subSatSResult, subOvfSResult_eq, sub_eq_ofInt_toInt, hv, ← signedOverflow_eq_decide_ne]

/-- Settles O43: the results of the four operations, each the clamped exact one. -/
theorem saturatingAddSub : Obligations.SaturatingAddSub := by
  intro s
  obtain ⟨v1, h1, hv1⟩ := addSatUResult_eq s.cmd
  obtain ⟨v2, h2, hv2⟩ := subSatUResult_eq s.cmd
  obtain ⟨v3, h3, hv3⟩ := addSatSResult_eq (bits_pos _) s.cmd
  obtain ⟨v4, h4, hv4⟩ := subSatSResult_eq (bits_pos _) s.cmd
  exact ⟨v1, v2, v3, v4, exec_of_opResult h1, exec_of_opResult h2, exec_of_opResult h3, exec_of_opResult h4,
    hv1, hv2, hv3, hv4⟩

end Sys2Proof.Machine
end

section
/-! Addition and subtraction that widen or average (43_add_sub.md R170 to R178): the exact sum or difference has one
bit more than its operands, which `2W` bits hold, and half of it fits in `W` bits. -/

namespace Sys2Proof.Machine

variable {w : Nat}

/-- The integers of `W + 1` bits, read signed. -/
def oneBitMore (w : Nat) : Set Int := Set.Ico (-(2 : Int) ^ w) ((2 : Int) ^ w)

theorem two_pow_eq_two_mul (hw : 0 < w) : (2 : Int) ^ w = 2 * (2 : Int) ^ (w - 1) := by
  rw [← pow_succ', Nat.sub_add_cancel hw]

theorem toNat_add_toNat_lt (a b : BitVec w) : a.toNat + b.toNat < 2 * 2 ^ w := by
  have ha := a.isLt
  have hb := b.isLt
  omega

theorem toNat_sub_toNat_mem (a b : BitVec w) : (a.toNat : Int) - b.toNat ∈ oneBitMore w := by
  have ha : (a.toNat : Int) < (2 : Int) ^ w := by exact_mod_cast a.isLt
  have hb : (b.toNat : Int) < (2 : Int) ^ w := by exact_mod_cast b.isLt
  exact ⟨by omega, by omega⟩

theorem toInt_add_toInt_mem (a b : BitVec w) : a.toInt + b.toInt ∈ oneBitMore w :=
  ⟨by linarith [a.le_two_mul_toInt, b.le_two_mul_toInt], by linarith [a.two_mul_toInt_lt, b.two_mul_toInt_lt]⟩

theorem toInt_sub_toInt_mem (a b : BitVec w) : a.toInt - b.toInt ∈ oneBitMore w :=
  ⟨by linarith [a.le_two_mul_toInt, b.two_mul_toInt_lt], by linarith [a.two_mul_toInt_lt, b.le_two_mul_toInt]⟩

theorem wideResult_signed (hw : 0 < w) {i : Int} (hi : i ∈ oneBitMore w) :
    (wideHi w i ++ wideLo w i).toInt = i ∧ (wideHi w i = 0 ∨ wideHi w i = BitVec.allOnes w) := by
  obtain ⟨hlow, hhigh⟩ := hi
  have hpow : (2 : Int) ^ w ≤ (2 : Int) ^ (w + w - 1) := pow_le_pow_right₀ (by decide) (by omega)
  have hexact : (wideHi w i ++ wideLo w i).toInt = i := by
    rw [wideHi_append_wideLo]
    exact BitVec.toInt_ofInt_eq_self (by omega) (by omega) (by omega)
  refine ⟨hexact, ?_⟩
  have hsplit := hexact
  rw [BitVec.toInt_append, if_neg (by simpa using hw.ne')] at hsplit
  have hlo : ((wideLo w i).toNat : Int) < (2 : Int) ^ w := by exact_mod_cast (wideLo w i).isLt
  have hlt : (wideHi w i).toInt < 1 := by nlinarith
  have hgt : -2 < (wideHi w i).toInt := by nlinarith
  obtain h0 | h1 : (wideHi w i).toInt = 0 ∨ (wideHi w i).toInt = -1 := by omega
  · left
    exact BitVec.eq_of_toInt_eq (by simpa using h0)
  · right
    exact BitVec.eq_of_toInt_eq (by simpa [BitVec.toInt_allOnes, hw] using h1)

theorem wideResult_unsigned (hw : 0 < w) {n : Nat} (hn : n < 2 * 2 ^ w) :
    (wideHi w n ++ wideLo w n).toNat = n ∧ (wideHi w n = 0 ∨ wideHi w n = 1) := by
  have hpow : 2 * 2 ^ w ≤ 2 ^ (w + w) := by
    rw [← pow_succ']
    exact Nat.pow_le_pow_right (by decide) (by omega)
  have hexact : (wideHi w n ++ wideLo w n).toNat = n := by
    rw [wideHi_append_wideLo, ← bv_eq_ofInt, bv_natCast, BitVec.toNat_ofNat, Nat.mod_eq_of_lt (by omega)]
  have hsplit : n = 2 ^ w * (wideHi w n).toNat + (wideLo w n).toNat := by
    have := u_joinHalves (wideHi w n) (wideLo w n)
    rw [joinHalves, u_eq_toNat, u_eq_toNat, u_eq_toNat, hexact] at this
    exact_mod_cast this
  have hlt : (wideHi w n).toNat < 2 := by nlinarith
  refine ⟨hexact, (Nat.le_one_iff_eq_zero_or_eq_one.1 (Nat.le_of_lt_succ hlt)).imp ?_ ?_⟩
  · exact fun h0 => BitVec.eq_of_toNat_eq (by simpa using h0)
  · exact fun h1 => BitVec.eq_of_toNat_eq (by simpa [hw] using h1)

/-- Settles O44: `wideResult_unsigned` for the first operation and `wideResult_signed` for the other three. -/
theorem wideningAddSub : Obligations.WideningAddSub := by
  intro s
  have hw : 0 < s.bits := bits_pos _
  obtain ⟨hv1, hh1⟩ := wideResult_unsigned hw (toNat_add_toNat_lt s.regs.al s.regs.bl)
  obtain ⟨hv2, hh2⟩ := wideResult_signed hw (toNat_sub_toNat_mem s.regs.al s.regs.bl)
  obtain ⟨hv3, hh3⟩ := wideResult_signed hw (toInt_add_toInt_mem s.regs.al s.regs.bl)
  obtain ⟨hv4, hh4⟩ := wideResult_signed hw (toInt_sub_toInt_mem s.regs.al s.regs.bl)
  refine ⟨_, _, _, _, _, _, _, _, exec_of_opResult ?addU, exec_of_opResult rfl, exec_of_opResult ?addS,
    exec_of_opResult ?subS, hv1, hv2, hv3, hv4, hh1, hh2, hh3, hh4⟩
  case addU => rw [Int.natCast_add]; rfl
  case addS | subS => rw [← sgn_eq_toInt, ← sgn_eq_toInt]; rfl

/-! Averages. -/

theorem bv_half_toInt (hw : 0 < w) {i : Int} (hi : i ∈ oneBitMore w) : (bv w (i / 2)).toInt = i / 2 := by
  obtain ⟨hlow, hhigh⟩ := hi
  rw [two_pow_eq_two_mul hw] at hlow hhigh
  exact BitVec.toInt_ofInt_eq_self hw (by omega) (by omega)

theorem bv_half_toNat {n : Nat} (hn : n < 2 * 2 ^ w) : (bv w ((n : Int) / 2)).toNat = n / 2 := by
  have hcast : (n : Int) / 2 = (n / 2 : Nat) := by norm_cast
  rw [hcast, bv_natCast, BitVec.toNat_ofNat, Nat.mod_eq_of_lt (by omega)]

/-- Settles O45: half of an integer of `W + 1` bits fits in `W` bits, and the floored division is that of `Int`. -/
theorem averagingAddSub : Obligations.AveragingAddSub := by
  intro s
  have hw : 0 < s.bits := bits_pos _
  have hhalf (i : Int) : fdiv i 2 = i / 2 := fdiv_eq_ediv i (by decide)
  refine ⟨_, _, _, _, exec_of_opResult ?addU, exec_of_opResult ?subU, exec_of_opResult ?addS, exec_of_opResult ?subS,
    bv_half_toNat (toNat_add_toNat_lt _ _), bv_half_toInt hw (toNat_sub_toNat_mem _ _),
    bv_half_toInt hw (toInt_add_toInt_mem _ _), bv_half_toInt hw (toInt_sub_toInt_mem _ _)⟩
  case addU => rw [← hhalf, Int.natCast_add]; rfl
  case subU => rw [← hhalf]; rfl
  case addS | subS => rw [← hhalf, ← sgn_eq_toInt, ← sgn_eq_toInt]; rfl

end Sys2Proof.Machine
end

section
/-! The carry chain and the borrow chain of two half-width adders (43_add_sub.md R156). A pattern and its carry are told
by one equation between integers, which the equations of the adders of the chain add up to. -/

namespace Sys2Proof.Machine

variable {w h : Nat}

theorem u_bv_add_carry {i : Int} (hlow : 0 ≤ i) (hhigh : i < 2 * (2 ^ w : Nat)) :
    u (bv w i) + (2 ^ w : Nat) * (decide (i ≥ (2 ^ w : Nat))).toNat = i := by
  rw [u, bv, BitVec.toNat_ofInt, Int.toNat_of_nonneg (Int.emod_nonneg _ (by positivity))]
  by_cases hc : i ≥ (2 ^ w : Nat)
  · rw [decide_eq_true hc, Int.emod_eq_sub_self_emod, Int.emod_eq_of_lt (by omega) (by omega)]
    simp
  · rw [decide_eq_false hc, Int.emod_eq_of_lt hlow (by omega)]
    simp

theorem u_bv_sub_borrow {i : Int} (hlow : -(2 ^ w : Nat) ≤ i) (hhigh : i < (2 ^ w : Nat)) :
    u (bv w i) - (2 ^ w : Nat) * (decide (i < 0)).toNat = i := by
  rw [u, bv, BitVec.toNat_ofInt, Int.toNat_of_nonneg (Int.emod_nonneg _ (by positivity))]
  by_cases hc : i < 0
  · rw [decide_eq_true hc, ← Int.add_emod_right, Int.emod_eq_of_lt (by omega) (by omega)]
    simp
  · rw [decide_eq_false hc, Int.emod_eq_of_lt (by omega) hhigh]
    simp

theorem bv_u_add_mul (v : BitVec w) (k : Int) : bv w (u v + (2 ^ w : Nat) * k) = v := by
  have hmod : u v % (2 ^ w : Nat) = u v := Int.emod_eq_of_lt (u_nonneg v) (u_lt v)
  apply BitVec.eq_of_toNat_eq
  rw [bv, BitVec.toNat_ofInt, Int.add_mul_emod_self_left, hmod, u, Int.toNat_natCast]

theorem eq_sum_of_carry {v : BitVec w} {c : Bool} {i : Int} (hi : u v + (2 ^ w : Nat) * c.toNat = i) :
    v = bv w i ∧ c = decide (i ≥ (2 ^ w : Nat)) := by
  have hnonneg := u_nonneg v
  have hlt := u_lt v
  subst hi
  refine ⟨(bv_u_add_mul v _).symm, ?_⟩
  cases c
  · simpa using hlt
  · simp [hnonneg]

theorem eq_difference_of_borrow {v : BitVec w} {c : Bool} {i : Int} (hi : u v - (2 ^ w : Nat) * c.toNat = i) :
    v = bv w i ∧ c = decide (i < 0) := by
  have hnonneg := u_nonneg v
  have hlt := u_lt v
  subst hi
  constructor
  · rw [Int.sub_eq_add_neg, ← Int.mul_neg, bv_u_add_mul]
  · cases c
    · simp [hnonneg]
    · simpa using hlt

theorem u_ofBool (hw : 0 < w) (c : Bool) : u (ofBool w c) = c.toNat := by
  cases c <;> simp [ofBool_eq, u_eq_toNat, hw]

theorem decide_sub_neg (x y : Int) : decide (x - y < 0) = decide (x < y) := decide_eq_decide.2 sub_neg

theorem ite_eq_toNat (c : Bool) : (if c then 1 else 0 : Int) = c.toNat := by cases c <;> rfl

theorem toNat_or_of_not_and {c d : Bool} (hcd : ¬(c = true ∧ d = true)) : (c || d).toNat = c.toNat + d.toNat := by
  cases c
  case false => rw [Bool.false_or, Bool.toNat_false, Nat.zero_add]
  case true =>
    have hd : d = false := Bool.eq_false_of_not_eq_true fun hd => hcd ⟨rfl, hd⟩
    rw [hd]
    rfl

theorem carryOut_add (a b : BitVec w) : u (bv w (u a + u b)) + (2 ^ w : Nat) * (carryOut a b).toNat = u a + u b := by
  have ha := u_lt a
  have hb := u_lt b
  exact u_bv_add_carry (add_nonneg (u_nonneg a) (u_nonneg b)) (by omega)

theorem borrowOut_sub (a b : BitVec w) :
    u (bv w (u a - u b)) - (2 ^ w : Nat) * (borrowOut a b).toNat = u a - u b := by
  have ha := u_lt a
  have hb := u_lt b
  have ha' := u_nonneg a
  have hb' := u_nonneg b
  rw [borrowOut, ← decide_sub_neg]
  exact u_bv_sub_borrow (by omega) (by omega)

/-- The adder of the high halves with the carry `c` of the low halves. Its two additions do not both carry:
`2 * (2^H - 1) + 1 < 2 * 2^H`. -/
theorem carryOut_add_carryIn (hw : 0 < w) (a b : BitVec w) (c : Bool) :
    u (bv w (u (bv w (u a + u b)) + u (ofBool w c))) + (2 ^ w : Nat) *
      (carryOut a b || decide (u (bv w (u a + u b)) + (if c then 1 else 0) ≥ (2 ^ w : Nat))).toNat =
    u a + u b + c.toNat := by
  have hsum := carryOut_add a b
  have ha := u_lt a
  have hb := u_lt b
  have hc := c.toNat_le
  rw [u_ofBool hw, ite_eq_toNat]
  generalize bv w (u a + u b) = t at *
  have ht := u_nonneg t
  have ht' := u_lt t
  have hcarry := u_bv_add_carry (w := w) (i := u t + c.toNat) (by omega) (by omega)
  rw [toNat_or_of_not_and, Nat.cast_add]
  · linarith
  · rintro ⟨h1, h2⟩
    rw [decide_eq_true_eq] at h2
    rw [h1, Bool.toNat_true] at hsum
    omega

/-- The subtracter of the high halves with the borrow `c` of the low halves. Its two subtractions do not both
borrow: `0 - (2^H - 1) - 1 >= -2^H`. -/
theorem borrowOut_sub_borrowIn (hw : 0 < w) (a b : BitVec w) (c : Bool) :
    u (bv w (u (bv w (u a - u b)) - u (ofBool w c))) - (2 ^ w : Nat) *
      (borrowOut a b || decide (u (bv w (u a - u b)) < (if c then 1 else 0))).toNat =
    u a - u b - c.toNat := by
  have hdiff := borrowOut_sub a b
  have ha := u_nonneg a
  have hb := u_lt b
  have hc := c.toNat_le
  rw [u_ofBool hw, ite_eq_toNat, ← decide_sub_neg]
  generalize bv w (u a - u b) = t at *
  have ht := u_nonneg t
  have ht' := u_lt t
  have hborrow := u_bv_sub_borrow (w := w) (i := u t - c.toNat) (by omega) (by omega)
  rw [toNat_or_of_not_and, Nat.cast_add]
  · linarith
  · rintro ⟨h1, h2⟩
    rw [decide_eq_true_eq] at h2
    rw [h1, Bool.toNat_true] at hdiff
    omega

theorem addHalves_exact (hh : 0 < h) (a b : BitVec (h + h)) :
    u (addHalves a b).1 + (2 ^ (h + h) : Nat) * (addHalves a b).2.toNat = u a + u b := by
  have hlow := carryOut_add (loHalf a) (loHalf b)
  have hhigh := carryOut_add_carryIn hh (hiHalf a) (hiHalf b) (carryOut (loHalf a) (loHalf b))
  rw [u_eq_halves a, u_eq_halves b, addHalves, u_joinHalves, pow_add, Nat.cast_mul]
  linear_combination (2 ^ h : Nat) * hhigh + hlow

theorem subHalves_exact (hh : 0 < h) (a b : BitVec (h + h)) :
    u (subHalves a b).1 - (2 ^ (h + h) : Nat) * (subHalves a b).2.toNat = u a - u b := by
  have hlow := borrowOut_sub (loHalf a) (loHalf b)
  have hhigh := borrowOut_sub_borrowIn hh (hiHalf a) (hiHalf b) (borrowOut (loHalf a) (loHalf b))
  rw [u_eq_halves a, u_eq_halves b, subHalves, u_joinHalves, pow_add, Nat.cast_mul]
  linear_combination (2 ^ h : Nat) * hhigh + hlow

/-- Settles O56: the chains are exact, and their results are told by that. -/
theorem carryChainOfHalves : Obligations.CarryChainOfHalves := by
  intro h x hh
  obtain ⟨hsum, hcarry⟩ := eq_sum_of_carry (addHalves_exact hh x.a x.b)
  obtain ⟨hdiff, hborrow⟩ := eq_difference_of_borrow (subHalves_exact hh x.a x.b)
  rw [decide_sub_neg] at hborrow
  rw [hsum, hcarry, hdiff, hborrow]
  exact ⟨rfl, rfl, rfl, rfl⟩

end Sys2Proof.Machine
end

section
/-! Multiplication (44_multiply.md R190 to R195): the exact product fits in `2W` bits, its low word is the product of
the patterns in every reading, and its two words tell whether it fits in `W` bits. -/

namespace Sys2Proof.Machine

variable {w : Nat}

/-! The low word of a product. -/

theorem wideLo_eq_ofInt (i : Int) : wideLo w i = BitVec.ofInt w i := by
  have hdvd : (2 : Int) ^ w ∣ 2 ^ (2 * w) := pow_dvd_pow 2 (by omega)
  have hnonneg (n : Nat) : 0 ≤ i % (2 : Int) ^ n := Int.emod_nonneg _ (by positivity)
  apply BitVec.eq_of_toNat_eq
  rw [wideLo, bitsAt_zero_eq_setWidth, BitVec.toNat_setWidth, bv, BitVec.toNat_ofInt, BitVec.toNat_ofInt]
  zify
  rw [Int.toNat_of_nonneg (hnonneg _), Int.toNat_of_nonneg (hnonneg _), Int.emod_emod_of_dvd i hdvd]

theorem ofInt_toNat (v : BitVec w) : BitVec.ofInt w v.toNat = v := by
  rw [BitVec.ofInt_natCast, BitVec.ofNat_toNat, BitVec.setWidth_eq]

section
variable {a b : BitVec w} {i k : Int} (hi : BitVec.ofInt w i = a) (hk : BitVec.ofInt w k = b)
include hi hk

theorem wideLo_mul : wideLo w (i * k) = a * b := by rw [wideLo_eq_ofInt, BitVec.ofInt_mul, hi, hk]

theorem wideResult_mul : wideResult (i * k) = { lo := a * b, hi := wideHi w (i * k) } := by
  rw [wideResult, wideLo_mul hi hk]

end

theorem mulResult_eq (x : Command w) : mulResult x = { lo := x.a * x.b } := by
  rw [mulResult, bv, BitVec.ofInt_mul, u, u, ofInt_toNat, ofInt_toNat]

theorem mulWideUResult_eq_mul (x : Command w) :
    mulWideUResult x = { lo := x.a * x.b, hi := wideHi w (x.a.toNat * x.b.toNat) } :=
  wideResult_mul (ofInt_toNat _) (ofInt_toNat _)

theorem mulWideSResult_eq_mul (x : Command w) :
    mulWideSResult x = { lo := x.a * x.b, hi := wideHi w (x.a.toInt * x.b.toInt) } := by
  rw [mulWideSResult, sgn_eq_toInt, sgn_eq_toInt, wideResult_mul BitVec.ofInt_toInt BitVec.ofInt_toInt]

theorem mulWideSUResult_eq_mul (x : Command w) :
    mulWideSUResult x = { lo := x.a * x.b, hi := wideHi w (x.a.toInt * x.b.toNat) } := by
  rw [mulWideSUResult, sgn_eq_toInt, u, wideResult_mul BitVec.ofInt_toInt (ofInt_toNat _)]

/-! The two words of a product. -/

theorem wideHi_append_mul_toNat (a b : BitVec w) :
    (wideHi w (a.toNat * b.toNat) ++ a * b).toNat = a.toNat * b.toNat := by
  have hlt : a.toNat * b.toNat < 2 ^ (w + w) := by
    rw [pow_add]
    exact Nat.mul_lt_mul'' a.isLt b.isLt
  rw [← wideLo_mul (ofInt_toNat a) (ofInt_toNat b), wideHi_append_wideLo, ← Int.natCast_mul, BitVec.ofInt_natCast,
    BitVec.toNat_ofNat, Nat.mod_eq_of_lt hlt]

/-- The integers of `2W` bits, read signed. -/
def doubleWidth (w : Nat) : Set Int := Set.Ico (-(2 : Int) ^ (w + w - 1)) ((2 : Int) ^ (w + w - 1))

theorem wideHi_append_mul_toInt (hw : 0 < w) {a b : BitVec w} {i k : Int} (hi : BitVec.ofInt w i = a)
    (hk : BitVec.ofInt w k = b) (hik : i * k ∈ doubleWidth w) : (wideHi w (i * k) ++ a * b).toInt = i * k := by
  rw [← wideLo_mul hi hk, wideHi_append_wideLo]
  exact BitVec.toInt_ofInt_eq_self (by omega) hik.1 hik.2

theorem toInt_mul_toInt_mem (hw : 0 < w) (a b : BitVec w) : a.toInt * b.toInt ∈ doubleWidth w := by
  have hpow : (2 : Int) ^ (w * 2 - 2) < (2 : Int) ^ (w + w - 1) := pow_lt_pow_right₀ (by decide) (by omega)
  have hlow := BitVec.le_toInt_mul_toInt (x := a) (y := b)
  have hhigh := BitVec.toInt_mul_toInt_le (x := a) (y := b)
  exact ⟨by omega, by omega⟩

theorem toInt_mul_toNat_mem (hw : 0 < w) (a b : BitVec w) : a.toInt * b.toNat ∈ doubleWidth w := by
  have hpow : (2 : Int) ^ (w + w - 1) = 2 ^ (w - 1) * 2 ^ w := by
    rw [← pow_add]
    congr 1
    omega
  have ha := a.le_toInt
  have ha' := a.toInt_lt
  have hb : (b.toNat : Int) < 2 ^ w := by exact_mod_cast b.isLt
  rw [doubleWidth, hpow]
  constructor <;> nlinarith

/-- Settles O46: the three exact products fit in `2W` bits, over the common low word `A * B`. -/
theorem products : Obligations.Products := by
  intro s
  have hw : 0 < s.bits := bits_pos _
  exact ⟨_, _, _, _, exec_of_opResult (mulResult_eq s.cmd), exec_of_opResult (mulWideUResult_eq_mul s.cmd),
    exec_of_opResult (mulWideSResult_eq_mul s.cmd), exec_of_opResult (mulWideSUResult_eq_mul s.cmd),
    wideHi_append_mul_toNat _ _,
    wideHi_append_mul_toInt hw BitVec.ofInt_toInt BitVec.ofInt_toInt (toInt_mul_toInt_mem hw _ _),
    wideHi_append_mul_toInt hw BitVec.ofInt_toInt (ofInt_toNat _) (toInt_mul_toNat_mem hw _ _)⟩

/-! The overflow flags: a product that has no pattern of `W` bits. -/

theorem mulOverflowU_eq (hi lo : BitVec w) : mulOverflowU hi = decide (2 ^ w ≤ (hi ++ lo).toNat) := by
  have hsplit : (hi ++ lo).toNat = 2 ^ w * hi.toNat + lo.toNat := by
    rw [BitVec.toNat_append, ← Nat.shiftLeft_add_eq_or_of_lt lo.isLt, Nat.shiftLeft_eq, mul_comm]
  have hlo := lo.isLt
  rw [mulOverflowU, cZero_eq, hsplit, decide_eq_decide, ne_eq, ← BitVec.toNat_inj, BitVec.toNat_zero]
  constructor
  · intro hne
    exact Nat.le_add_right_of_le (Nat.le_mul_of_pos_right _ (Nat.pos_of_ne_zero hne))
  · intro hle h0
    rw [h0] at hle
    omega

/-- Two words are the sign extension of the low one exactly if they have its signed value. -/
theorem mulOverflowS_eq (hw : 0 < w) (lo hi : BitVec w) :
    mulOverflowS lo hi = decide ((hi ++ lo).toInt ≠ lo.toInt) := by
  have hsplit : (hi ++ lo).toInt = 2 ^ w * hi.toInt + lo.toNat := by
    rw [BitVec.toInt_append, if_neg (by simpa using hw.ne')]
  have hlo : lo.toInt = 2 ^ w * (if lo.msb then cMaxU w else cZero w).toInt + lo.toNat := by
    rw [BitVec.toInt_eq_msb_cond]
    split_ifs
    · rw [cMaxU_eq, BitVec.toInt_allOnes, if_pos hw]
      push_cast
      ring
    · rw [cZero_eq, BitVec.toInt_zero]
      ring
  have hpow : (2 : Int) ^ w ≠ 0 := by positivity
  rw [mulOverflowS, hsplit, hlo, decide_eq_decide, ne_eq, ne_eq, add_left_inj, mul_right_inj' hpow, BitVec.toInt_inj]

theorem decide_ne_toInt_ofInt (hw : 0 < w) (i : Int) :
    decide (i ≠ (BitVec.ofInt w i).toInt) = signedOverflow w i := by
  rw [signedOverflow, decide_eq_decide, ← not_iff_not, not_not, not_or, not_lt, not_le]
  constructor
  · intro hi
    rw [hi]
    exact ⟨BitVec.le_toInt _, BitVec.toInt_lt⟩
  · rintro ⟨hlow, hhigh⟩
    exact (BitVec.toInt_ofInt_eq_self hw hlow hhigh).symm

theorem mul_eq_ofInt_toInt (a b : BitVec w) : a * b = BitVec.ofInt w (a.toInt * b.toInt) := by
  rw [BitVec.ofInt_mul, BitVec.ofInt_toInt, BitVec.ofInt_toInt]

theorem mulOvfUResult_eq (x : Command w) :
    mulOvfUResult x = { lo := x.a * x.b, flag := decide (2 ^ w ≤ x.a.toNat * x.b.toNat) } := by
  rw [mulOvfUResult, mulWideUResult_eq_mul, mulOverflowU_eq _ (x.a * x.b), wideHi_append_mul_toNat]

theorem mulOvfSResult_eq (hw : 0 < w) (x : Command w) :
    mulOvfSResult x = { lo := x.a * x.b, flag := signedOverflow w (x.a.toInt * x.b.toInt) } := by
  have hexact := wideHi_append_mul_toInt hw BitVec.ofInt_toInt BitVec.ofInt_toInt (toInt_mul_toInt_mem hw x.a x.b)
  rw [mulOvfSResult, mulWideSResult_eq_mul, mulOverflowS_eq hw, hexact, mul_eq_ofInt_toInt, decide_ne_toInt_ofInt hw]

/-- Settles O47: the results of the two operations in the terms of the statement. -/
theorem overflowingProducts : Obligations.OverflowingProducts := fun s =>
  ⟨exec_of_opResult (mulOvfUResult_eq s.cmd), exec_of_opResult (mulOvfSResult_eq (bits_pos _) s.cmd)⟩

end Sys2Proof.Machine
end

section
/-! The product from halves, and the signed products from the unsigned one (44_multiply.md R196, R197). -/

namespace Sys2Proof.Machine

variable {w h : Nat}

theorem productHalves_eq (a b : BitVec (h + h)) : productHalves a b = a.toNat * b.toNat := by
  have hsplit (v : BitVec (h + h)) : v.toNat = 2 ^ h * (hiHalf v).toNat + (loHalf v).toNat := by
    have := u_eq_halves v
    simp only [u_eq_toNat] at this
    exact_mod_cast this
  rw [hsplit a, hsplit b, productHalves]
  ring

theorem mulHalves_eq (a b : BitVec (h + h)) : mulHalves a b = (a * b, wideHi (h + h) (a.toNat * b.toNat)) := by
  have hlo : BitVec.ofNat (h + h) (a.toNat * b.toNat) = a * b := BitVec.eq_of_toNat_eq (by simp)
  have hhi : BitVec.ofNat (h + h) (a.toNat * b.toNat / 2 ^ (h + h)) = wideHi (h + h) (a.toNat * b.toNat) := by
    rw [wideHi_eq_ofInt, ← BitVec.ofInt_natCast]
    push_cast
    rfl
  rw [mulHalves, productHalves_eq, hlo, hhi]

/-- Settles O57: the cross products add up to the exact product, whose words are those of `MUL_WIDE_U`. -/
theorem productOfHalves : Obligations.ProductOfHalves := by
  intro h x _
  rw [mulHalves_eq]
  exact ⟨productHalves_eq x.a x.b, mulWideUResult_eq_mul x, mulResult_eq x⟩

/-- Where `a` is negative, its signed reading takes `2^W * k` from the product with `k`. -/
theorem wideHi_toInt_mul (a : BitVec w) (k : Int) :
    wideHi w (a.toInt * k) = wideHi w (a.toNat * k) - (if a.msb then BitVec.ofInt w k else cZero w) := by
  have hpow : (2 : Int) ^ w ≠ 0 := by positivity
  rw [wideHi_eq_ofInt, wideHi_eq_ofInt, BitVec.toInt_eq_msb_cond]
  split_ifs
  · have hsub : (a.toNat - (2 ^ w : Nat)) * k = a.toNat * k + 2 ^ w * -k := by push_cast; ring
    rw [hsub, Int.add_mul_ediv_left _ _ hpow, BitVec.ofInt_add, BitVec.ofInt_neg, BitVec.sub_eq_add_neg]
  · rw [cZero_eq, BitVec.sub_zero]

theorem wideHi_toInt_mul_toNat (a b : BitVec w) :
    wideHi w (a.toInt * b.toNat) = correctSU a b (wideHi w (a.toNat * b.toNat)) := by
  rw [wideHi_toInt_mul, ofInt_toNat, correctSU]

theorem wideHi_toInt_mul_toInt (a b : BitVec w) :
    wideHi w (a.toInt * b.toInt) = correctSS a b (wideHi w (a.toNat * b.toNat)) := by
  rw [mul_comm, wideHi_toInt_mul, BitVec.ofInt_toInt, mul_comm, wideHi_toInt_mul_toNat, correctSU, correctSS]

/-- Settles O58: one correction of the high word for each operand that is read signed. -/
theorem signedProductCorrection : Obligations.SignedProductCorrection := by
  intro wd x
  rw [mulWideSResult_eq_mul, mulWideSUResult_eq_mul, mulWideUResult_eq_mul, wideHi_toInt_mul_toInt,
    wideHi_toInt_mul_toNat]
  exact ⟨rfl, rfl⟩

end Sys2Proof.Machine
end

section
/-! Division and remainder (45_divide.md R200 to R206). But for a divisor of zero, the four results are the library's
`/`, `%`, `sdiv` and `srem` of the patterns, `MIN_S / -1` included. -/

namespace Sys2Proof.Machine

variable {w : Nat}

theorem u_eq_zero_iff {v : BitVec w} : u v = 0 ↔ v.toNat = 0 := Int.natCast_eq_zero

theorem fdiv_u_u (a b : BitVec w) : fdiv (u a) (u b) = (a.toNat / b.toNat : Nat) := by
  rw [fdiv_eq_ediv _ (u_nonneg b), u_eq_toNat, u_eq_toNat, Int.natCast_div]

theorem u_sub_mul_fdiv_u (a b : BitVec w) : u a - u b * fdiv (u a) (u b) = (a.toNat % b.toNat : Nat) := by
  rw [fdiv_eq_ediv _ (u_nonneg b), ← Int.emod_def, u_eq_toNat, u_eq_toNat, Int.natCast_emod]

/-! The rules, one equation for each operation. -/

theorem divUResult_eq (x : Command w) : divUResult x =
    { lo := if x.b.toNat = 0 then BitVec.allOnes w else BitVec.ofNat w (x.a.toNat / x.b.toNat) } := by
  simp only [divUResult, fdiv_u_u, bv_natCast, cMaxU_eq, u_eq_zero_iff]
  split_ifs <;> rfl

theorem remUResult_eq (x : Command w) : remUResult x =
    { lo := if x.b.toNat = 0 then x.a else BitVec.ofNat w (x.a.toNat % x.b.toNat) } := by
  simp only [remUResult, u_sub_mul_fdiv_u, bv_natCast, u_eq_zero_iff]
  split_ifs <;> rfl

theorem divSResult_eq (x : Command w) : divSResult x =
    { lo := if x.b = 0 then BitVec.allOnes w
            else if x.a = BitVec.intMin w ∧ x.b = BitVec.allOnes w then BitVec.intMin w
            else BitVec.ofInt w (x.a.toInt.tdiv x.b.toInt) } := by
  have hzero : cZero w = 0 := cZero_eq w
  rw [divSResult, hzero, cMaxU_eq, cMinS_eq, sgn_eq_toInt, sgn_eq_toInt]
  split_ifs <;> rfl

theorem remSResult_eq (x : Command w) : remSResult x =
    { lo := if x.b = 0 then x.a
            else if x.a = BitVec.intMin w ∧ x.b = BitVec.allOnes w then 0
            else BitVec.ofInt w (x.a.toInt.tmod x.b.toInt) } := by
  have hzero : cZero w = 0 := cZero_eq w
  rw [remSResult, hzero, cMaxU_eq, cMinS_eq, sgn_eq_toInt, sgn_eq_toInt, trem_eq_tmod]
  split_ifs <;> rfl

/-- Settles O48: the results of the four operations in the terms of the statement. -/
theorem divisionIsTotal : Obligations.DivisionIsTotal := fun s =>
  ⟨exec_of_opResult (divUResult_eq s.cmd), exec_of_opResult (remUResult_eq s.cmd),
    exec_of_opResult (divSResult_eq s.cmd), exec_of_opResult (remSResult_eq s.cmd)⟩

/-! The operations of the library. -/

theorem toNat_ne_zero {b : BitVec w} (hb : b ≠ 0) : b.toNat ≠ 0 :=
  fun h => hb (BitVec.eq_of_toNat_eq (h.trans BitVec.toNat_zero.symm))

theorem toInt_ne_zero {b : BitVec w} (hb : b ≠ 0) : b.toInt ≠ 0 :=
  fun h => hb (BitVec.eq_of_toInt_eq (h.trans BitVec.toInt_zero.symm))

theorem intMin_sdiv_allOnes : (BitVec.intMin w).sdiv (BitVec.allOnes w) = BitVec.intMin w := by
  rw [← BitVec.neg_one_eq_allOnes, BitVec.intMin_sdiv_neg_one]

theorem toInt_sdiv_of_not_overflow {a b : BitVec w} (h : ¬(a = BitVec.intMin w ∧ b = BitVec.allOnes w)) :
    (a.sdiv b).toInt = a.toInt.tdiv b.toInt := by
  rw [not_and_or, ← BitVec.neg_one_eq_allOnes] at h
  exact BitVec.toInt_sdiv_of_ne_or_ne a b h

/-- Division by -1 leaves no remainder, which is what R203 gives for `MIN_S` and -1. -/
theorem srem_allOnes (a : BitVec w) : a.srem (BitVec.allOnes w) = 0 := by
  obtain rfl | hw := Nat.eq_zero_or_pos w
  · exact Subsingleton.elim _ _
  · apply BitVec.eq_of_toInt_eq
    rw [BitVec.toInt_srem, BitVec.toInt_allOnes, if_pos hw, Int.tmod_neg, Int.tmod_one, BitVec.ofNat_eq_ofNat,
      BitVec.toInt_zero]

section
variable {x : Command w} (hb : x.b ≠ 0)
include hb

theorem divUResult_of_ne_zero : divUResult x = { lo := x.a / x.b } := by
  rw [divUResult_eq, if_neg (toNat_ne_zero hb), BitVec.udiv_def]

theorem remUResult_of_ne_zero : remUResult x = { lo := x.a % x.b } := by
  rw [remUResult_eq, if_neg (toNat_ne_zero hb), BitVec.umod_def]

theorem divSResult_of_ne_zero : divSResult x = { lo := x.a.sdiv x.b } := by
  by_cases hov : x.a = BitVec.intMin w ∧ x.b = BitVec.allOnes w
  · rw [divSResult_eq, if_neg hb, if_pos hov, hov.1, hov.2, intMin_sdiv_allOnes]
  · rw [divSResult_eq, if_neg hb, if_neg hov, ← toInt_sdiv_of_not_overflow hov, BitVec.ofInt_toInt]

theorem remSResult_of_ne_zero : remSResult x = { lo := x.a.srem x.b } := by
  by_cases hov : x.a = BitVec.intMin w ∧ x.b = BitVec.allOnes w
  · rw [remSResult_eq, if_neg hb, if_pos hov, hov.2, srem_allOnes]
  · rw [remSResult_eq, if_neg hb, if_neg hov, ← BitVec.toInt_srem, BitVec.ofInt_toInt]

end

/-! The identities. -/

theorem abs_toInt_srem_lt (a : BitVec w) {b : BitVec w} (hb : b ≠ 0) : |(a.srem b).toInt| < |b.toInt| := by
  rw [BitVec.toInt_srem, Int.abs_eq_natAbs, Int.abs_eq_natAbs, Int.natAbs_tmod]
  exact Int.ofNat_lt.2 (Nat.mod_lt _ (Int.natAbs_pos.2 (toInt_ne_zero hb)))

theorem srem_eq_zero_or_msb_eq (a b : BitVec w) : a.srem b = 0 ∨ (a.srem b).msb = a.msb := by
  by_cases h : a.srem b = 0
  · exact .inl h
  · right
    rw [BitVec.msb_srem, decide_eq_true h, Bool.and_true]

theorem toInt_eq_sdiv_mul_add_srem {a b : BitVec w} (h : ¬(a = BitVec.intMin w ∧ b = BitVec.allOnes w)) :
    a.toInt = (a.sdiv b).toInt * b.toInt + (a.srem b).toInt := by
  rw [toInt_sdiv_of_not_overflow h, BitVec.toInt_srem, mul_comm, Int.mul_tdiv_add_tmod]

/-- At `MIN_S / -1` the identity holds modulo `2^W`, since `-MIN_S = MIN_S`, and not of the signed values, since the
product `MIN_S * -1` is positive. -/
theorem intMin_mul_allOnes (hw : 0 < w) :
    BitVec.intMin w * BitVec.allOnes w = BitVec.intMin w ∧
      (BitVec.intMin w).toInt ≠ (BitVec.intMin w).toInt * (BitVec.allOnes w).toInt := by
  constructor
  · rw [← BitVec.neg_one_eq_allOnes, BitVec.mul_neg, BitVec.mul_one, BitVec.neg_intMin]
  · have hpow : (0 : Int) < 2 ^ (w - 1) := Int.pow_pos (by decide)
    rw [BitVec.toInt_allOnes, if_pos hw, BitVec.toInt_intMin_of_pos hw]
    omega

/-- Settles O49: the library's quotients and remainders meet the identities. -/
theorem divisionIdentities : Obligations.DivisionIdentities := by
  intro s hb
  refine ⟨s.regs.al / s.regs.bl, s.regs.al % s.regs.bl, s.regs.al.sdiv s.regs.bl, s.regs.al.srem s.regs.bl,
    exec_of_opResult (divUResult_of_ne_zero hb), exec_of_opResult (remUResult_of_ne_zero hb),
    exec_of_opResult (divSResult_of_ne_zero hb), exec_of_opResult (remSResult_of_ne_zero hb),
    ?identityU, ?boundU, ?signed, ?overflow⟩
  case identityU =>
    rw [BitVec.toNat_udiv, BitVec.toNat_umod]
    exact (Nat.div_add_mod' _ _).symm
  case boundU => exact Nat.mod_lt _ (Nat.pos_of_ne_zero (toNat_ne_zero hb))
  case signed =>
    exact fun hov => ⟨toInt_eq_sdiv_mul_add_srem hov, abs_toInt_srem_lt _ hb, srem_eq_zero_or_msb_eq _ _⟩
  case overflow =>
    rintro ⟨ha, hb⟩
    obtain ⟨hmod, hne⟩ := intMin_mul_allOnes (bits_pos s.inst.width)
    rw [ha, hb, intMin_sdiv_allOnes, srem_allOnes, BitVec.ofNat_eq_ofNat, BitVec.toInt_zero, BitVec.add_zero, add_zero]
    exact ⟨rfl, rfl, hmod.symm, hne⟩

end Sys2Proof.Machine
end

section
/-! Signed division by magnitudes (45_divide.md R205): `|v|` is the library's `abs`, and its `sdiv` and `srem` are
defined by the cases of the two signs. -/

namespace Sys2Proof.Machine

variable {w : Nat}

theorem magnitude_eq_abs (v : BitVec w) : magnitude v = v.abs := by
  cases h : v.msb
  case true =>
    rw [magnitude, if_pos (sgn_neg_of_msb h), sgn_eq_toInt, bv, BitVec.ofInt_neg, BitVec.ofInt_toInt, BitVec.abs_eq,
      if_pos h]
  case false =>
    rw [magnitude, if_neg (sgn_nonneg_of_msb h).not_gt, sgn_eq_toInt, bv, BitVec.ofInt_toInt, BitVec.abs_eq,
      if_neg (Bool.eq_false_iff.1 h)]

theorem bv_neg_natCast (n : Nat) : bv w (-n) = -BitVec.ofNat w n := by
  rw [bv, BitVec.ofInt_neg, BitVec.ofInt_natCast]

theorem sdiv_eq_abs (a b : BitVec w) :
    a.sdiv b = if a.msb != b.msb then -(a.abs / b.abs) else a.abs / b.abs := by
  rw [BitVec.sdiv_eq, BitVec.abs_eq, BitVec.abs_eq]
  cases a.msb <;> cases b.msb <;> rfl

theorem srem_eq_abs (a b : BitVec w) :
    a.srem b = if a.msb then -(a.abs % b.abs) else a.abs % b.abs := by
  rw [BitVec.srem_eq, BitVec.abs_eq, BitVec.abs_eq]
  cases a.msb <;> cases b.msb <;> rfl

theorem divByMagnitudes_eq (a b : BitVec w) : divByMagnitudes a b = (a.sdiv b, a.srem b) := by
  rw [divByMagnitudes, u_sub_mul_fdiv_u, fdiv_u_u, magnitude_eq_abs, magnitude_eq_abs, bv_neg_natCast, bv_neg_natCast,
    bv_natCast, bv_natCast, ← BitVec.udiv_def, ← BitVec.umod_def, sdiv_eq_abs, srem_eq_abs]

/-- Settles O59: both readings are `sdiv` and `srem`. -/
theorem divisionByMagnitudes : Obligations.DivisionByMagnitudes := by
  intro wd x hb _
  rw [divByMagnitudes_eq]
  exact ⟨divSResult_of_ne_zero hb, remSResult_of_ne_zero hb⟩

end Sys2Proof.Machine
end

section
/-! The reference division (45_divide.md R207): limb lists are digit expansions, the one-word sweep is long division by
any divisor, and Algorithm D is that sweep, since its corrected estimate of a quotient limb is exact. -/

namespace Sys2Proof.Machine

/-! The equations of the limb functions. -/

theorem limbBase_pos : 0 < limbBase := Nat.two_pow_pos _

theorem limbBase_pow (n : Nat) : limbBase ^ n = 2 ^ (64 * n) := (Nat.pow_mul 2 64 n).symm

theorem limbsOf_succ (n x : Nat) : limbsOf (n + 1) x = x / limbBase ^ n % limbBase :: limbsOf n x := rfl

theorem sweepOneWord_nil (d r : Nat) : sweepOneWord d r [] = ([], r) := rfl

theorem sweepOneWord_cons (d r l : Nat) (ls : List Nat) : sweepOneWord d r (l :: ls) =
    let rest := sweepOneWord d ((r * limbBase + l) % d) ls
    ((r * limbBase + l) / d :: rest.1, rest.2) := rfl

theorem correctLimb_succ (d window fuel q : Nat) : correctLimb d window (fuel + 1) q =
    if q * d > window then correctLimb d window fuel (q - 1) else q := rfl

theorem knuthSweep_cons (n d r l : Nat) (ls : List Nat) : knuthSweep n d r (l :: ls) =
    let q := correctLimb d (r * limbBase + l) 2 (estimateLimb n d (r * limbBase + l))
    let rest := knuthSweep n d (r * limbBase + l - q * d) ls
    (q :: rest.1, rest.2) := rfl

theorem usedLimbs_eq (d : Nat) : usedLimbs d = d.log2 / 64 + 1 := rfl

theorem normShift_eq (d : Nat) : normShift d = (d.log2 / 64 + 1) * 64 - 1 - d.log2 := rfl

/-! Limb lists. -/

/-- A limb `l` appended to the digits `r`, over `n` more limbs of value `x`. -/
theorem append_limb (r l n x : Nat) :
    (r * limbBase + l) * limbBase ^ n + x = r * limbBase ^ (n + 1) + (l * limbBase ^ n + x) := by
  rw [Nat.add_mul, Nat.mul_assoc, ← Nat.pow_succ', Nat.add_assoc]

theorem ofLimbs_nil : ofLimbs [] = 0 := rfl

theorem foldl_limbs (acc : Nat) (ls : List Nat) :
    ls.foldl (fun acc l => acc * limbBase + l) acc = acc * limbBase ^ ls.length + ofLimbs ls := by
  induction ls generalizing acc with
  | nil => rw [List.foldl_nil, List.length_nil, Nat.pow_zero, Nat.mul_one, ofLimbs_nil, Nat.add_zero]
  | cons l ls ih =>
    have hcons : ofLimbs (l :: ls) = ls.foldl (fun acc l => acc * limbBase + l) (0 * limbBase + l) := rfl
    rw [hcons, List.foldl_cons, ih, ih, List.length_cons, append_limb, Nat.zero_mul, Nat.zero_add]

theorem ofLimbs_cons (l : Nat) (ls : List Nat) : ofLimbs (l :: ls) = l * limbBase ^ ls.length + ofLimbs ls :=
  (foldl_limbs (0 * limbBase + l) ls).trans (by rw [Nat.zero_mul, Nat.zero_add])

theorem length_limbsOf (n x : Nat) : (limbsOf n x).length = n := by
  induction n with
  | zero => rfl
  | succ n ih => rw [limbsOf_succ, List.length_cons, ih]

theorem ofLimbs_limbsOf (n x : Nat) : ofLimbs (limbsOf n x) = x % limbBase ^ n := by
  induction n with
  | zero => exact (Nat.mod_one x).symm
  | succ n ih => rw [limbsOf_succ, ofLimbs_cons, length_limbsOf, ih, Nat.mod_pow_succ, Nat.add_comm, Nat.mul_comm]

theorem lt_limbBase_of_mem_limbsOf {n x l : Nat} (hl : l ∈ limbsOf n x) : l < limbBase := by
  induction n with
  | zero => exact absurd hl List.not_mem_nil
  | succ n ih =>
    rcases List.mem_cons.1 hl with rfl | htail
    · exact Nat.mod_lt _ limbBase_pos
    · exact ih htail

/-! Step 2, the sweep. -/

section
variable {d : Nat}

theorem length_sweepOneWord (r : Nat) (ls : List Nat) : (sweepOneWord d r ls).1.length = ls.length := by
  induction ls generalizing r with
  | nil => rfl
  | cons l ls ih => rw [sweepOneWord_cons, List.length_cons, List.length_cons, ih]

theorem sweepOneWord_snd_lt {r : Nat} (hr : r < d) (ls : List Nat) : (sweepOneWord d r ls).2 < d := by
  induction ls generalizing r with
  | nil => exact hr
  | cons l ls ih => exact ih (Nat.mod_lt _ (Nat.zero_lt_of_lt hr))

theorem sweepOneWord_identity (r : Nat) (ls : List Nat) :
    (sweepOneWord d r ls).2 + d * ofLimbs (sweepOneWord d r ls).1 = r * limbBase ^ ls.length + ofLimbs ls := by
  induction ls generalizing r with
  | nil => simp [sweepOneWord_nil, ofLimbs_nil]
  | cons l ls ih =>
    rw [sweepOneWord_cons, ofLimbs_cons, ofLimbs_cons, length_sweepOneWord, List.length_cons, Nat.mul_add,
      Nat.add_left_comm, ih, ← Nat.mul_assoc, ← Nat.add_assoc, ← Nat.add_mul, Nat.div_add_mod, append_limb]

/-- The sweep divides a dividend of at most `n` limbs, whatever the size of the divisor. -/
theorem sweepOneWord_limbsOf (hd : 0 < d) {n x : Nat} (hx : x < limbBase ^ n) :
    (ofLimbs (sweepOneWord d 0 (limbsOf n x)).1, (sweepOneWord d 0 (limbsOf n x)).2) = (x / d, x % d) := by
  have hident := sweepOneWord_identity (d := d) 0 (limbsOf n x)
  rw [Nat.zero_mul, Nat.zero_add, ofLimbs_limbsOf, Nat.mod_eq_of_lt hx] at hident
  obtain ⟨hq, hr⟩ := (Nat.div_mod_unique hd).2 ⟨hident, sweepOneWord_snd_lt hd _⟩
  rw [hq, hr]

end

/-! Step 3, one quotient limb. -/

/-- At most `fuel` decrements take an estimate that is at most `fuel` too large to the quotient. -/
theorem correctLimb_eq_div {d window : Nat} (hd : 0 < d) {fuel q : Nat} (hlow : window / d ≤ q)
    (hhigh : q ≤ window / d + fuel) : correctLimb d window fuel q = window / d := by
  induction fuel generalizing q with
  | zero => exact Nat.le_antisymm hhigh hlow
  | succ fuel ih =>
    rw [correctLimb_succ]
    split_ifs with hbig
    · have hlt : window / d < q := (Nat.div_lt_iff_lt_mul hd).2 hbig
      exact ih (Nat.le_sub_one_of_lt hlt) (Nat.sub_le_of_le_add hhigh)
    · exact Nat.le_antisymm ((Nat.le_div_iff_mul_le hd).2 (Nat.le_of_not_gt hbig)) hlow

/-- `d` is at least half of `limbBase ^ n`: the high bit of the top one of its `n ≥ 2` limbs is set. -/
def Normalized (n d : Nat) : Prop := 2 ≤ n ∧ limbBase ^ n ≤ 2 * d

section
variable {n d : Nat} (hd : Normalized n d)
include hd

theorem Normalized.pos : 0 < d := by
  obtain ⟨-, hhalf⟩ := hd
  have hpow := Nat.pow_pos (n := n) limbBase_pos
  omega

/-- The top two limbs of a normalized divisor are at least one limb's base: `2^127 ≥ 2^64`. -/
theorem Normalized.limbBase_le_top : limbBase ≤ d / limbBase ^ (n - 2) := by
  obtain ⟨hn, hhalf⟩ := hd
  rw [Nat.le_div_iff_mul_le (Nat.pow_pos limbBase_pos)]
  have hsplit : limbBase ^ n = limbBase * (limbBase * limbBase ^ (n - 2)) := by
    rw [← Nat.mul_assoc, ← Nat.pow_two, ← Nat.pow_add, Nat.add_sub_cancel' hn]
  have htwo : 2 * (limbBase * limbBase ^ (n - 2)) ≤ limbBase * (limbBase * limbBase ^ (n - 2)) :=
    Nat.mul_le_mul_right _ (by decide)
  omega

theorem Normalized.top_pos : 0 < d / limbBase ^ (n - 2) := limbBase_pos.trans_le hd.limbBase_le_top

variable {window : Nat} (hw : window < d * limbBase)
include hw

/-- The true quotient is a limb, and the low limbs of the divisor, which the estimate leaves out, only lower it. -/
theorem quotient_le_estimateLimb : window / d ≤ estimateLimb n d window := by
  have hlimb : window / d ≤ limbBase - 1 := Nat.le_sub_one_of_lt (Nat.div_lt_of_lt_mul hw)
  refine le_min hlimb ((Nat.le_div_iff_mul_le hd.top_pos).2 ((Nat.le_div_iff_mul_le (Nat.pow_pos limbBase_pos)).2 ?_))
  calc window / d * (d / limbBase ^ (n - 2)) * limbBase ^ (n - 2)
      = window / d * (d / limbBase ^ (n - 2) * limbBase ^ (n - 2)) := Nat.mul_assoc _ _ _
    _ ≤ window / d * d := Nat.mul_le_mul_left _ (Nat.div_mul_le_self _ _)
    _ ≤ window := Nat.div_mul_le_self _ _

/-- With `D` the top two limbs and `q` the true quotient, the window's top is below `(q + 1) * (D + 1)`, and
`q + 1 ≤ D`: the top two limbs of the divisor and the top three of the dividend leave an error of one. -/
theorem estimateLimb_le_quotient_add_one : estimateLimb n d window ≤ window / d + 1 := by
  have hP : 0 < limbBase ^ (n - 2) := Nat.pow_pos limbBase_pos
  have hqD : window / d + 1 ≤ d / limbBase ^ (n - 2) :=
    (Nat.succ_le_of_lt (Nat.div_lt_of_lt_mul hw)).trans hd.limbBase_le_top
  have hwindow : window < d * (window / d + 1) := Nat.lt_mul_div_succ window hd.pos
  have hdivisor : d ≤ limbBase ^ (n - 2) * (d / limbBase ^ (n - 2) + 1) := (Nat.lt_mul_div_succ d hP).le
  refine (min_le_right _ _).trans (Nat.le_of_lt_succ ?_)
  rw [Nat.div_lt_iff_lt_mul hd.top_pos, Nat.div_lt_iff_lt_mul hP]
  generalize limbBase ^ (n - 2) = P at *
  generalize d / P = D at *
  generalize window / d = q at *
  calc window < d * (q + 1) := hwindow
    _ ≤ P * (D + 1) * (q + 1) := Nat.mul_le_mul_right _ hdivisor
    _ = ((q + 1) * D + (q + 1)) * P := by ring
    _ ≤ ((q + 1) * D + D) * P := Nat.mul_le_mul_right _ (Nat.add_le_add_left hqD _)
    _ = (q + 1).succ * D * P := by rw [Nat.succ_mul (q + 1)]

theorem correctLimb_estimateLimb : correctLimb d window 2 (estimateLimb n d window) = window / d :=
  correctLimb_eq_div hd.pos (quotient_le_estimateLimb hd hw)
    ((estimateLimb_le_quotient_add_one hd hw).trans (Nat.le_succ _))

end

/-! Step 3, Algorithm D. -/

theorem knuthSweep_eq_sweepOneWord {n d : Nat} (hd : Normalized n d) {r : Nat} (hr : r < d) {ls : List Nat}
    (hls : ∀ l ∈ ls, l < limbBase) : knuthSweep n d r ls = sweepOneWord d r ls := by
  induction ls generalizing r with
  | nil => rfl
  | cons l ls ih =>
    obtain ⟨hl, htail⟩ := List.forall_mem_cons.1 hls
    have hwindow : r * limbBase + l < d * limbBase := by
      have := Nat.mul_le_mul_right limbBase (Nat.succ_le_of_lt hr)
      rw [Nat.succ_mul] at this
      omega
    simp only [knuthSweep_cons, sweepOneWord_cons, correctLimb_estimateLimb hd hwindow, ← Nat.mod_eq_sub_div_mul,
      ih (Nat.mod_lt _ hd.pos) htail]

/-- The shift brings the top bit of `d`, bit `log2 d`, to the top of its `usedLimbs d` limbs. -/
theorem two_pow_log2_normShift (d : Nat) : 2 * (2 ^ d.log2 * 2 ^ normShift d) = limbBase ^ usedLimbs d := by
  rw [← Nat.pow_add, ← Nat.pow_succ', limbBase_pow, normShift_eq, usedLimbs_eq]
  congr 1
  omega

theorem normalized_shifted {d : Nat} (hd : limbBase ≤ d) : Normalized (usedLimbs d) (d * 2 ^ normShift d) := by
  have hne : d ≠ 0 := (limbBase_pos.trans_le hd).ne'
  have hlog : 64 ≤ d.log2 := (Nat.le_log2 hne).2 hd
  constructor
  · rw [usedLimbs_eq]
    omega
  · rw [← two_pow_log2_normShift]
    exact Nat.mul_le_mul_left _ (Nat.mul_le_mul_right _ (Nat.log2_self_le hne))

theorem mul_two_pow_normShift_lt {m a : Nat} (ha : a < limbBase ^ m) (d : Nat) :
    a * 2 ^ normShift d < limbBase ^ (m + 1) := by
  have hshift : normShift d ≤ 64 := by
    rw [normShift_eq]
    omega
  rw [Nat.pow_succ]
  exact Nat.mul_lt_mul_of_lt_of_le ha (Nat.pow_le_pow_right (by decide) hshift) (Nat.two_pow_pos _)

/-- The normalizing shift scales dividend and divisor alike: it leaves the quotient, and scales the remainder. -/
theorem knuthD_eq {m a d : Nat} (ha : a < limbBase ^ m) (hd : limbBase ≤ d) : knuthD m a d = (a / d, a % d) := by
  have hnorm := normalized_shifted hd
  have hsh := Nat.two_pow_pos (normShift d)
  have hsweep := sweepOneWord_limbsOf hnorm.pos (mul_two_pow_normShift_lt ha d)
  rw [Nat.mul_div_mul_right _ _ hsh, Nat.mul_mod_mul_right, Prod.mk.injEq] at hsweep
  obtain ⟨hq, hr⟩ := hsweep
  rw [knuthD, knuthSweep_eq_sweepOneWord hnorm hnorm.pos fun _ => lt_limbBase_of_mem_limbsOf, hq, hr,
    Nat.mul_div_cancel _ hsh]

/-! The three branches. -/

theorem longDivide_eq {m a d : Nat} (ha : a < limbBase ^ m) (hd : 0 < d) : longDivide m a d = (a / d, a % d) := by
  rw [longDivide]
  split_ifs with hshort hword
  · rw [Nat.div_eq_of_lt hshort, Nat.mod_eq_of_lt hshort]
  · exact sweepOneWord_limbsOf hd ha
  · exact knuthD_eq ha (Nat.le_of_not_lt hword)

theorem toNat_lt_limbBase_pow {w : Nat} (v : BitVec w) : v.toNat < limbBase ^ limbCount w := by
  refine v.isLt.trans_le ?_
  rw [limbBase_pow]
  refine Nat.pow_le_pow_right (by decide) ?_
  simp only [limbCount, Config.limbBits]
  omega

theorem longDivideU_eq {w : Nat} (a : BitVec w) {b : BitVec w} (hb : b ≠ 0) : longDivideU a b = (a / b, a % b) := by
  have hpos : 0 < b.toNat := Nat.pos_of_ne_zero (toNat_ne_zero hb)
  rw [longDivideU, longDivide_eq (toNat_lt_limbBase_pow a) hpos, BitVec.udiv_def, BitVec.umod_def]

/-- Settles O60: the reference algorithm gives the library's quotient and remainder of the patterns. -/
theorem referenceDivisionAgrees : Obligations.ReferenceDivisionAgrees := by
  intro wd x hb
  rw [longDivideU_eq x.a hb]
  exact ⟨divUResult_of_ne_zero hb, remUResult_of_ne_zero hb⟩

end Sys2Proof.Machine
end

section
/-! The commands on the low half of `A` (46_serialization.md R210, R211). -/

namespace Sys2Proof.Machine

variable {w : Nat}

theorem bits_ne_eight {wd : Width} (h : wd ≠ .w8) : wd.bits ≠ 8 := by
  have := sixteen_dvd_bits h
  omega

theorem putLoResult_of_eight (x : Command w) (hw : w = 8) : putLoResult x = { err := 1 } := if_pos hw

theorem putLoResult_of_ne_eight (x : Command w) (hw : w ≠ 8) :
    putLoResult x = { lo := BitVec.ofNat w (x.a.toNat % 2 ^ (w / 2)) } := by
  rw [putLoResult, if_neg hw, lowHalf, zextTo_bitsAt_zero]

theorem loSextResult_eq (x : Command w) : loSextResult x = { lo := (x.a.setWidth (w / 2)).signExtend w } := by
  rw [loSextResult, lowHalf, sextTo_eq_signExtend, bitsAt_zero_eq_setWidth]

/-- At position `H - 1` the extension of `SEXT` starts at the low half's sign bit. -/
theorem loSextResult_eq_sextResult (hw : 2 ≤ w) {x : Command w} (hn : x.n.toNat = w / 2 - 1) :
    loSextResult x = sextResult x :=
  (loSextResult_eq x).trans (sextResult_of_pred x.op x.a (by omega) (Nat.div_le_self w 2) hn).symm

/-- Settles O50: the two branches of `PUT_LO`, and `LO_SEXT` as the extension from position `H - 1`. -/
theorem lowHalfCommands : Obligations.LowHalfCommands := by
  intro s
  refine ⟨fun h => ?put, fun h => ?illegal, exec_of_opResult (loSextResult_eq s.cmd), fun x => ?sext⟩
  case put => exact exec_of_opResult (putLoResult_of_ne_eight s.cmd (bits_ne_eight h))
  case illegal => exact exec_of_opResult (putLoResult_of_eight s.cmd (congrArg Width.bits h))
  case sext => exact loSextResult_eq_sextResult (le_trans (by decide) (eight_le_bits s.inst.width))

end Sys2Proof.Machine
end

section
/-! The idle edge, that every edge answers a next state, and the error code of every command (60_exceptions.md R232,
R220, R221). -/

namespace Sys2Proof.Machine

variable {w : Nat}

/-- Settles O3: the idle edge of the five. -/
theorem idleEdgeHoldsEveryRegister : Obligations.IdleEdgeHoldsEveryRegister := by
  rintro ⟨p, r, ins⟩ hrst hstart hb
  exact step_idle hrst hb hstart

/-- Settles O9: by `step_eq_next`. -/
theorem everyStepAnswersANextState : Obligations.EveryStepAnswersANextState := by
  rintro ⟨p, r, ins⟩
  exact step_eq_next p r ins

/-! The code of an operation: the two operations that name `ERR`, each by its own test. -/

theorem fromNarrowResult_err (x : Command w) :
    (fromNarrowResult x).err = if narrowLegal w x.n.toNat then 0 else 2 := by
  rw [fromNarrowResult, apply_ite Results.err]
  rfl

theorem putLoResult_err (x : Command w) : (putLoResult x).err = if w = 8 then 1 else 0 := by
  rw [putLoResult, apply_ite Results.err]
  rfl

theorem opResult_err_eq_zero {i : Instr} (hn : i ≠ .fromNarrow) (hp : i ≠ .putLo) (x : Command w) :
    (opResult i x).err = 0 :=
  opResult_err_of_notMem_writes x fun h => ((err_mem_writes_iff i).1 h).elim hn hp

theorem opResult_err_eq_one_iff (i : Instr) (x : Command w) : (opResult i x).err = 1 ↔ i = .putLo ∧ w = 8 := by
  by_cases hp : i = .putLo
  · subst hp
    simp [opResult, putLoResult_err]
  by_cases hn : i = .fromNarrow
  · subst hn
    simp only [opResult, fromNarrowResult_err]
    split <;> simp
  · simp [opResult_err_eq_zero hn hp, hp]

theorem opResult_err_eq_two_iff (i : Instr) (x : Command w) :
    (opResult i x).err = 2 ↔ i = .fromNarrow ∧ ¬narrowLegal w x.n.toNat = true := by
  by_cases hn : i = .fromNarrow
  · subst hn
    simp [opResult, fromNarrowResult_err]
  by_cases hp : i = .putLo
  · subst hp
    simp only [opResult, putLoResult_err]
    split <;> simp
  · simp [opResult_err_eq_zero hn hp, hn]

/-! The code of a command: its opcode is reserved, or is that of one operation. -/

theorem decode_eq_ok_iff {op : Opcode} {i : Instr} : decode op = .ok i ↔ op = encode i :=
  ⟨fun h => (encode_of_decode h).symm, fun h => h ▸ decode_encode i⟩

theorem bits_eq_eight_iff (wd : Width) : wd.bits = 8 ↔ wd = .w8 :=
  ⟨not_imp_not.1 bits_ne_eight, fun h => congrArg Width.bits h⟩

theorem commandResult_err_eq_one_iff (x : Command w) :
    (commandResult x).err = 1 ↔ isReserved x.op = true ∨ (x.op = encode .putLo ∧ w = 8) := by
  rw [isReserved_iff_decode, ← decode_eq_ok_iff]
  rcases decode_cases x.op with ⟨i, hi, -⟩ | hrej
  · rw [commandResult_of_decode hi, opResult_err_eq_one_iff]
    simp [hi]
  · rw [commandResult_of_reject hrej]
    exact iff_of_true rfl (.inl hrej)

theorem commandResult_err_eq_two_iff (x : Command w) :
    (commandResult x).err = 2 ↔ x.op = encode .fromNarrow ∧ ¬narrowLegal w x.n.toNat = true := by
  rw [← decode_eq_ok_iff]
  rcases decode_cases x.op with ⟨i, hi, -⟩ | hrej
  · rw [commandResult_of_decode hi, opResult_err_eq_two_iff]
    simp [hi]
  · rw [commandResult_of_reject hrej]
    refine iff_of_false (by decide : errIllegalOp ≠ 2) ?_
    simp [hrej]

/-- Settles O18: the two codes by the opcode and the test of its operation; with an error the other results are
zero. -/
theorem errorCodesAreExact : Obligations.ErrorCodesAreExact := by
  intro wd x
  rw [← narrowLegal_iff, ← bits_eq_eight_iff]
  exact ⟨commandResult_err_eq_one_iff x, commandResult_err_eq_two_iff x, commandResult_err_ne_three x,
    commandResult_zero_of_err⟩

end Sys2Proof.Machine
end

section
/-! The reset edge, and when the host may read the results (70_reset_and_hazards.md R240, R246). -/

namespace Sys2Proof.Machine

variable {w m : Nat} {r : Regs w}

/-- Settles O1: the reset edge of the five writes every register, `CNT` with the model's choice of log entry 5. -/
theorem resetEdgeGivesTheResetValues : Obligations.ResetEdgeGivesTheResetValues := by
  rintro ⟨p, r, ins⟩ hrst
  exact ⟨(Regs.resetValues p.width.bits).cnt, step_reset hrst⟩

theorem hostRead_of_not_done {s : State} (h : s.regs.done = false) : hostRead s = .error .readBeforeDone :=
  if_neg (Bool.eq_false_iff.1 h)

/-- A command in flight shows no results: `BUSY` and `DONE` are never both 1 (10_state.md R28, R30). -/
theorem Regs.Coherent.done_eq_false_of_busy (h : r.Coherent m) (hb : r.busy = true) : r.done = false :=
  Bool.eq_false_iff.2 fun hd => h.notBoth ⟨hb, hd⟩

/-- Settles O23: the host reads by `DONE`, which is 0 in flight by the invariant, and 0 after reset. -/
theorem hostReadsOnlyWhileDone : Obligations.HostReadsOnlyWhileDone := by
  intro s
  refine ⟨hostRead_of_done, hostRead_of_not_done, fun ⟨_, hcoh⟩ hb => ?inFlight, ?reset⟩
  case inFlight => exact hostRead_of_not_done (hcoh.done_eq_false_of_busy hb)
  case reset => exact hostRead_of_not_done (s := State.resetOf s.inst) rfl

end Sys2Proof.Machine
end
